-- ==== Sys2Proof/Word.lean ====
section
/-! DEFINITION. The word types of the block (00_scope.md R8 to R10): everything is unsigned. -/

namespace Sys2Proof

/-- A byte, `BYTE_W` = 8 bits. -/
abbrev Byte := BitVec 8

/-- A hardware data register, `REG_W` = 16 bits. -/
abbrev Reg16 := BitVec 16

/-- A size, cursor, offset, remaining-count or buffer index, `SIZE_W` = 32 bits (the default of the open parameter;
DESIGN CHOICE, log 1). -/
abbrev Size := BitVec 32

/-- A length field, `LEN_W` = 4 bits. -/
abbrev Len := BitVec 4

/-- A standard frame identifier, `ID_W` = 11 bits. -/
abbrev Ident := BitVec 11

/-- A handle of a caller's byte buffer: a name without width or meaning (92_eei_decisions.md D4; log 2). -/
abbrev Handle := Nat

end Sys2Proof
end

