-- ==== Sys2Proof/Config.lean ====
section
/-! DEFINITION. The parameters of the block (00_scope.md R8) and the model's free values. Constants the spec fixes are
definitions; what it leaves open has no body, so that no proof can know it. -/

namespace Sys2Proof

/-- `FRAME_MAX`: the greatest payload length of a frame. -/
@[simp] abbrev Config.frameMax : Nat := 8

/-- `NREG`: the number of data registers in the latched window. -/
@[simp] abbrev Config.nreg : Nat := 4

/-- `TX_ID`: the identifier of every frame the block transmits. -/
@[simp] abbrev Config.txId : Ident := 0x2#11

/-- `RX_ID`: the identifier of every frame the block receives. -/
@[simp] abbrev Config.rxId : Ident := 0x5#11

/-- `RX_MASK`: the full acceptance mask. -/
@[simp] abbrev Config.rxMask : Ident := 0x7FF#11

/-- `TX_FILTER`: off. -/
@[simp] abbrev Config.txFilter : Bool := false

/-- `RX_FILTER`: on. -/
@[simp] abbrev Config.rxFilter : Bool := true

/-- `2 ^ SIZE_W`: one more than the greatest index of a buffer. -/
@[simp] abbrev Config.sizeRange : Nat := 4294967296

/-- The four bit-timing integers (10_state.md R41); how the four divide among the three names is not said. -/
structure BitTiming where
  t0 : Nat
  t1 : Nat
  t2 : Nat
  t3 : Nat
  deriving DecidableEq, Repr, Inhabited

/-! The open parameters and the free bytes of an instance are functions of its `HANDLE` (60_exceptions.md R244: instances "coexist
without shared global state"), so nothing relates those of two instances (log 10). -/

/-- `BITTIMING` of an instance, OPEN: the "fixed constant set" that initialisation programs (log 10). -/
opaque Config.bitTiming (handle : Nat) : BitTiming

/-- `T_IFD` of an instance, OPEN: the inter-frame delay, in a unit the spec does not give (log 10). -/
opaque Config.tIfd (handle : Nat) : Nat

/-- `draw(8)`: the n-th free byte of an instance, under no law (93_implementation_defined.md U5; log 7). -/
opaque Config.draw (handle n : Nat) : Byte

end Sys2Proof
end

