-- ==== Sys2Proof/Syntax.lean ====
section
/-! DEFINITION. The operations of the block: one constructor per row of spec/opcode_table.json (30_encoding.md R107). -/

namespace Sys2Proof

/-- Format TXDESC, a transmit descriptor (30_encoding.md R95). -/
structure TxDesc where
  buf   : Handle
  index : Size
  count : Len
  deriving DecidableEq, Repr

/-- The 26 operations: four commands (format CMD), eleven sequencer micro-operations (PHASE), two marshalling
micro-operations (MPHASE) and nine collaborator primitives (PRIM). -/
inductive Instr where
  /-- `INIT`; `ARG_SIZE` and `ARG_BUF` are ignored (R200). -/
  | init
  /-- `RECEIVE size, destination` (R141). -/
  | receive (size : Size) (dst : Handle)
  /-- `TRANSMIT size, source` (R171). -/
  | transmit (size : Size) (src : Handle)
  /-- `MARSHAL n, destination` (R121). -/
  | marshal (n : Size) (dst : Handle)
  | rxPoll
  | rxReq
  | rxLen
  | rxCopy
  | rxRearm
  | rxAcct
  | txWait
  | txDelay
  | txChunk
  | txSubmit
  | txAdvance
  | mFetch
  | mEmit
  | mbRxNewdat
  | mbRxRequest
  | mbRxLen
  /-- `MB_RX_DATA k` (R204). -/
  | mbRxData (k : BitVec 2)
  | mbRxRearm
  | mbTxReady
  /-- `MB_TX_SUBMIT desc` (R207). -/
  | mbTxSubmit (desc : TxDesc)
  | delay
  | mbInit
  deriving DecidableEq, Repr

/-- The four formats whose codes the block decodes (30_encoding.md R101, R104, R105, R106). -/
inductive Format where
  | cmd
  | phase
  | mphase
  | prim
  deriving DecidableEq, Repr

/-- The format of each operation, `opcode_table.json`'s "format". -/
def Instr.format : Instr → Format
  | .init => .cmd
  | .receive _ _ => .cmd
  | .transmit _ _ => .cmd
  | .marshal _ _ => .cmd
  | .rxPoll => .phase
  | .rxReq => .phase
  | .rxLen => .phase
  | .rxCopy => .phase
  | .rxRearm => .phase
  | .rxAcct => .phase
  | .txWait => .phase
  | .txDelay => .phase
  | .txChunk => .phase
  | .txSubmit => .phase
  | .txAdvance => .phase
  | .mFetch => .mphase
  | .mEmit => .mphase
  | .mbRxNewdat => .prim
  | .mbRxRequest => .prim
  | .mbRxLen => .prim
  | .mbRxData _ => .prim
  | .mbRxRearm => .prim
  | .mbTxReady => .prim
  | .mbTxSubmit _ => .prim
  | .delay => .prim
  | .mbInit => .prim

end Sys2Proof
end

