-- ==== Sys2Proof/WellFormed.lean ====
section
/-! DEFINITION. Which instructions are well formed: the one operand whose type is wider than the spec's range is the
count of a transmit descriptor, "with 1 ≤ count ≤ 8" (30_encoding.md R95). A MARSHAL count above 8 is well formed: the
command port accepts it and the spec says what happens (40_marshalling.md R121). -/

namespace Sys2Proof

/-- The range of a transmit descriptor's count (30_encoding.md R95). -/
def TxDesc.wf (d : TxDesc) : Bool :=
  decide (1 ≤ d.count.toNat) && decide (d.count.toNat ≤ Config.frameMax)

/-- The well-formed instructions. -/
def Instr.wf : Instr → Bool
  | .init => true
  | .receive _ _ => true
  | .transmit _ _ => true
  | .marshal _ _ => true
  | .rxPoll => true
  | .rxReq => true
  | .rxLen => true
  | .rxCopy => true
  | .rxRearm => true
  | .rxAcct => true
  | .txWait => true
  | .txDelay => true
  | .txChunk => true
  | .txSubmit => true
  | .txAdvance => true
  | .mFetch => true
  | .mEmit => true
  | .mbRxNewdat => true
  | .mbRxRequest => true
  | .mbRxLen => true
  | .mbRxData _ => true
  | .mbRxRearm => true
  | .mbTxReady => true
  | .mbTxSubmit d => d.wf
  | .delay => true
  | .mbInit => true

end Sys2Proof
end

