-- ==== Sys2Proof/Decode.lean ====
section
/-! DEFINITION. The code maps of 30_encoding.md (R101, R104, R105, R106), a decoder for each format, total and rejecting by
name (R102, R108, R109), and the encoder written from the same tables. -/

namespace Sys2Proof

/-! ### The codes of the `phase` register (R104) -/

@[simp] abbrev Phase.idle      : BitVec 4 := 0x0#4
@[simp] abbrev Phase.rxPoll    : BitVec 4 := 0x1#4
@[simp] abbrev Phase.rxReq     : BitVec 4 := 0x2#4
@[simp] abbrev Phase.rxLen     : BitVec 4 := 0x3#4
@[simp] abbrev Phase.rxCopy    : BitVec 4 := 0x4#4
@[simp] abbrev Phase.rxRearm   : BitVec 4 := 0x5#4
@[simp] abbrev Phase.rxAcct    : BitVec 4 := 0x6#4
@[simp] abbrev Phase.txWait    : BitVec 4 := 0x8#4
@[simp] abbrev Phase.txDelay   : BitVec 4 := 0x9#4
@[simp] abbrev Phase.txChunk   : BitVec 4 := 0xA#4
@[simp] abbrev Phase.txSubmit  : BitVec 4 := 0xB#4
@[simp] abbrev Phase.txAdvance : BitVec 4 := 0xC#4
@[simp] abbrev Phase.faulted   : BitVec 4 := 0xF#4

/-! ### The codes of the `m_phase` register (R105) -/

@[simp] abbrev MPhase.idle  : BitVec 2 := 0#2
@[simp] abbrev MPhase.fetch : BitVec 2 := 1#2
@[simp] abbrev MPhase.emit  : BitVec 2 := 2#2

/-- Why a code names no operation. -/
inductive Reject where
  /-- A `CMD` code other than 0x01 to 0x04 (R108). -/
  | cmdIllegal (code : BitVec 8)
  /-- `phase` 0x0: no command is running. -/
  | idle
  /-- `phase` 0xF: the model-level fault state (R232). -/
  | faulted
  /-- `phase` 0x7, 0xD, 0xE (R109). -/
  | reservedPhase (code : BitVec 4)
  /-- `m_phase` 0: no marshalling run. -/
  | mIdle
  /-- `m_phase` 3 (R109). -/
  | reservedMPhase (code : BitVec 2)
  /-- `PRIM` 0x9 to 0xF (R109). -/
  | reservedPrim (code : BitVec 4)
  /-- An `MB_TX_SUBMIT` whose descriptor's count is not in 1..8 (R95). -/
  | descCount (count : Len)
  deriving DecidableEq, Repr

/-- Format CMD: the triple `(CMD, ARG_SIZE, ARG_BUF)`; all 8 bits of `CMD` are significant (R101, R102). -/
def decodeCmd (cmd : BitVec 8) (argSize : Size) (argBuf : Handle) : Except Reject Instr :=
  match cmd.toNat with
  | 0x01 => .ok .init
  | 0x02 => .ok (.receive argSize argBuf)
  | 0x03 => .ok (.transmit argSize argBuf)
  | 0x04 => .ok (.marshal argSize argBuf)
  | _ => .error (.cmdIllegal cmd)

/-- Format PHASE (R104). -/
def decodePhase (code : BitVec 4) : Except Reject Instr :=
  match code.toNat with
  | 0x0 => .error .idle
  | 0x1 => .ok .rxPoll
  | 0x2 => .ok .rxReq
  | 0x3 => .ok .rxLen
  | 0x4 => .ok .rxCopy
  | 0x5 => .ok .rxRearm
  | 0x6 => .ok .rxAcct
  | 0x8 => .ok .txWait
  | 0x9 => .ok .txDelay
  | 0xA => .ok .txChunk
  | 0xB => .ok .txSubmit
  | 0xC => .ok .txAdvance
  | 0xF => .error .faulted
  | _ => .error (.reservedPhase code)

/-- Format MPHASE (R105). -/
def decodeMPhase (code : BitVec 2) : Except Reject Instr :=
  match code.toNat with
  | 0 => .error .mIdle
  | 1 => .ok .mFetch
  | 2 => .ok .mEmit
  | _ => .error (.reservedMPhase code)

/-- Format PRIM: a selector with the operand of `MB_RX_DATA` and that of `MB_TX_SUBMIT` (R106); an operand the selected
primitive does not have is ignored. -/
def decodePrim (sel : BitVec 4) (k : BitVec 2) (desc : TxDesc) : Except Reject Instr :=
  match sel.toNat with
  | 0x0 => .ok .mbRxNewdat
  | 0x1 => .ok .mbRxRequest
  | 0x2 => .ok .mbRxLen
  | 0x3 => .ok (.mbRxData k)
  | 0x4 => .ok .mbRxRearm
  | 0x5 => .ok .mbTxReady
  | 0x6 => if desc.wf then .ok (.mbTxSubmit desc) else .error (.descCount desc.count)
  | 0x7 => .ok .delay
  | 0x8 => .ok .mbInit
  | _ => .error (.reservedPrim sel)

/-! ### Instructions as one number

The codes are the spec's, in the low bits as opcode_table.json numbers them. Where the operands lie above them is the
model's (DESIGN CHOICE, log 2): CMD has `ARG_SIZE` in bits 39:8 and `ARG_BUF` from bit 40; PRIM has `k` in bits 5:4, or the
descriptor's index in bits 35:4, its count in bits 39:36 and its buffer from bit 40. -/

/-- The transmit descriptor in the operand bits of a PRIM word. -/
def wordDesc (w : Nat) : TxDesc :=
  { buf := w / 2 ^ 40, index := BitVec.ofNat 32 (w / 2 ^ 4), count := BitVec.ofNat 4 (w / 2 ^ 36) }

/-- The instruction that the bits `w` name in format `f`. -/
def decode (f : Format) (w : Nat) : Except Reject Instr :=
  match f with
  | .cmd => decodeCmd (BitVec.ofNat 8 w) (BitVec.ofNat 32 (w / 2 ^ 8)) (w / 2 ^ 40)
  | .phase => decodePhase (BitVec.ofNat 4 w)
  | .mphase => decodeMPhase (BitVec.ofNat 2 w)
  | .prim => decodePrim (BitVec.ofNat 4 w) (BitVec.ofNat 2 (w / 2 ^ 4)) (wordDesc w)

/-- The code of each operation, opcode_table.json's "match". -/
def Instr.code : Instr → Nat
  | .init => 0x01
  | .receive _ _ => 0x02
  | .transmit _ _ => 0x03
  | .marshal _ _ => 0x04
  | .rxPoll => 0x1
  | .rxReq => 0x2
  | .rxLen => 0x3
  | .rxCopy => 0x4
  | .rxRearm => 0x5
  | .rxAcct => 0x6
  | .txWait => 0x8
  | .txDelay => 0x9
  | .txChunk => 0xA
  | .txSubmit => 0xB
  | .txAdvance => 0xC
  | .mFetch => 0x1
  | .mEmit => 0x2
  | .mbRxNewdat => 0x0
  | .mbRxRequest => 0x1
  | .mbRxLen => 0x2
  | .mbRxData _ => 0x3
  | .mbRxRearm => 0x4
  | .mbTxReady => 0x5
  | .mbTxSubmit _ => 0x6
  | .delay => 0x7
  | .mbInit => 0x8

/-- How many bits the code of a format has, all significant (opcode_table.json's "mask"). -/
def Format.codeBits : Format → Nat
  | .cmd => 8
  | .phase => 4
  | .mphase => 2
  | .prim => 4

/-- The operands of an instruction, in place above its code. -/
def Instr.operandBits : Instr → Nat
  | .receive size dst => size.toNat * 2 ^ 8 + dst * 2 ^ 40
  | .transmit size src => size.toNat * 2 ^ 8 + src * 2 ^ 40
  | .marshal n dst => n.toNat * 2 ^ 8 + dst * 2 ^ 40
  | .mbRxData k => k.toNat * 2 ^ 4
  | .mbTxSubmit d => d.index.toNat * 2 ^ 4 + d.count.toNat * 2 ^ 36 + d.buf * 2 ^ 40
  | .init | .rxPoll | .rxReq | .rxLen | .rxCopy | .rxRearm | .rxAcct | .txWait | .txDelay | .txChunk | .txSubmit
  | .txAdvance | .mFetch | .mEmit | .mbRxNewdat | .mbRxRequest | .mbRxLen | .mbRxRearm | .mbTxReady | .delay
  | .mbInit => 0

/-- The format and the bits of an instruction. -/
def encode (i : Instr) : Format × Nat :=
  (i.format, i.code + i.operandBits)

/-! ### Words numbered as opcode_table.json numbers them

The table's codes collide between formats and a table word names no format; the model reads one in the first format of
CMD, PHASE, PRIM that has its code (DESIGN CHOICE, log 4). -/

/-- Does `w` name an operation in format `f`? -/
def accepts (f : Format) (w : Nat) : Bool :=
  match decode f w with
  | .ok _ => true
  | .error _ => false

/-- The format in which a table word of `nbits` bits is read (log 4). -/
def tableFormat (nbits w : Nat) : Format :=
  if nbits ≤ 2 then .mphase
  else if 4 < nbits && (accepts .cmd w || decide (16 ≤ w % 2 ^ 8)) then .cmd
  else if accepts .phase w then .phase
  else .prim

/-- The instruction the decoder reads from a table word; the bits above `nbits` are 0. -/
def decodeTableWord (nbits w : Nat) : Option Instr :=
  match decode (tableFormat nbits (w % 2 ^ nbits)) (w % 2 ^ nbits) with
  | .ok i => some i
  | .error _ => none

end Sys2Proof
end

