-- ==== Sys2Proof/Machine/State.lean ====
section
/-! DEFINITION. The state of the block (10_state.md), as plain data, and its value after reset (R51). -/

namespace Sys2Proof.Machine

/-- The eight payload bytes of a message object (R38). -/
structure Bytes8 where
  b0 : Byte
  b1 : Byte
  b2 : Byte
  b3 : Byte
  b4 : Byte
  b5 : Byte
  b6 : Byte
  b7 : Byte
  deriving DecidableEq, Repr

/-- The four 16-bit data registers `WIN.D[0..3]` (R43). -/
structure Regs4 where
  d0 : Reg16
  d1 : Reg16
  d2 : Reg16
  d3 : Reg16
  deriving DecidableEq, Repr

/-- The latched window (R40, R43; format WIN, 30_encoding.md R93). -/
structure Window where
  /-- `WIN.D[0..3]`. -/
  d   : Regs4
  /-- `WIN.LEN`, the latched length field. -/
  len : Len
  /-- `WIN.ARB`, the latched arbitration field. -/
  arb : Ident
  deriving DecidableEq, Repr

/-- The transmit mailbox `TXMB` (R33, R36, R38). -/
structure TxMailbox where
  id      : Ident
  filter  : Bool
  pending : Bool
  data    : Bytes8
  dlc     : Len
  deriving DecidableEq, Repr

/-- The receive mailbox `RXMB` (R32, R37, R38). -/
structure RxMailbox where
  id     : Ident
  mask   : Ident
  filter : Bool
  newdat : Bool
  data   : Bytes8
  dlc    : Len
  arb    : Ident
  deriving DecidableEq, Repr

/-- Format FRAME: a frame on the wire (30_encoding.md R92); its `len` is the number of its payload bytes. -/
structure Frame where
  id      : Ident
  payload : List Byte
  deriving DecidableEq, Repr

/-- Format CMD: a command presented on the command port (30_encoding.md R101). -/
structure Command where
  cmd     : BitVec 8
  argSize : Size
  argBuf  : Handle
  deriving DecidableEq, Repr

/-- The moves of the agents (00_scope.md R7), of which a step makes one (20_memory.md R74). -/
inductive Move where
  /-- The engine: its next micro-operation. -/
  | engine
  /-- The caller presents a command (30_encoding.md R101). -/
  | command (c : Command)
  /-- A collaborator request presented on its own, as the spec's vectors V-MB1 to V-MB9 do (log 8). -/
  | request (sel : BitVec 4) (k : BitVec 2) (desc : TxDesc)
  /-- The controller: `ENV_RX_DELIVER` (43_mailbox_primitives.md R210). -/
  | rxDeliver
  /-- The controller: `ENV_TX_COMPLETE` (R211). -/
  | txComplete
  /-- The peer: `ENV_PEER_SEND` (R212). -/
  | peerSend (f : Frame)
  /-- The caller supplies a byte buffer and its contents (10_state.md R45, 43_mailbox_primitives.md R214). -/
  | lend (h : Handle) (bytes : List Byte)
  /-- External reset (70_reset_and_hazards.md R260). -/
  | reset
  deriving DecidableEq, Repr

/-- Byte `i` of buffer `h` is the cell at address `h * 2 ^ SIZE_W + i` (log 6). -/
abbrev Memory := List Host.Cell

/-- The capacity of each buffer, by handle; an unlisted handle has capacity 0 (log 6). -/
abbrev Capacities := List (Nat × Nat)

/-- The model-level faults (60_exceptions.md R231), which a step RECORDS in `fault` and `faultCode` as R232 says: raising one
is a next state, not an end of the run. -/
inductive FaultCode where
  | cmdIllegal
  | cmdWhileBusy
  | notInitialised
  | rxLengthIllegal
  | rxLengthOverrun
  | marshalRange
  | bufferRange
  | initTwice
  | txSubmitWhilePending
  deriving DecidableEq, Repr

/-- What stops the model where the spec names a location that does not exist. Both are unreachable from reset. -/
inductive Fault where
  /-- Raised by `M_FETCH` when `m_k` is 4 or more: window register `k ≥ NREG` does not exist and "is never issued"
  (43_mailbox_primitives.md R204). Safe: the machine has no such run (log 11). -/
  | windowRange (k : BitVec 3)
  /-- Raised by `TX_SUBMIT` and `MB_TX_SUBMIT` when the count is above 8: `TXMB.data` has eight bytes
  (10_state.md R38). Safe: `tx_chunk` is at most 8 in every run (log 11). -/
  | mailboxRange (count : Len)
  deriving DecidableEq, Repr

/-- Why an instruction is refused. -/
inductive Refusal where
  /-- An instruction without a meaning; raised by exec's arm of it. Safe. -/
  | notModelled (mnemonic : String)
  /-- Raised by the step when `phase`, `m_phase` or a request's selector holds a reserved code, or a request's descriptor a
  count outside 1..8: "a model's decode of them is a refusal" (30_encoding.md R109, R95). Safe: no rule produces one. -/
  | reserved (why : Reject)
  deriving DecidableEq, Repr

/-- The state of one instance of the block and of its environment (10_state.md R20). -/
structure State where
  /-- `HANDLE`, the controller instance this state is attached to (00_scope.md R8, 60_exceptions.md R244); no step changes it
  (log 10). -/
  handle      : Nat
  /-- The sequencer phase, codes of 30_encoding.md R104 (R29). -/
  phase       : BitVec 4
  /-- The marshalling unit's sub-phase, codes of 30_encoding.md R105 (R27). -/
  mPhase      : BitVec 2
  /-- A command is running (R28). -/
  busy        : Bool
  /-- The initialisation entry point has run (R28, R42). -/
  inited      : Bool
  /-- A model-level fault is recorded; sticky (R35). -/
  fault       : Bool
  /-- The code of the first fault (R35). -/
  faultCode   : BitVec 4
  /-- `tx_src` (R22). -/
  txSrc       : Handle
  /-- `tx_cursor` (R22). -/
  txCursor    : Size
  /-- `tx_remaining` (R22). -/
  txRemaining : Size
  /-- `tx_first` (R23). -/
  txFirst     : Bool
  /-- `tx_chunk` (R24). -/
  txChunk     : Len
  /-- `rx_dst` (R25). -/
  rxDst       : Handle
  /-- `rx_offset` (R25). -/
  rxOffset    : Size
  /-- `rx_remaining` (R25). -/
  rxRemaining : Size
  /-- `rx_len` (R26). -/
  rxLen       : Len
  /-- `m_dst` (R27). -/
  mDst        : Handle
  /-- `m_off` (R27). -/
  mOff        : Size
  /-- `m_n` (R27). -/
  mN          : BitVec 4
  /-- `m_k` (R27). -/
  mK          : BitVec 3
  /-- `m_word` (R27). -/
  mWord       : Reg16
  /-- `BITTIMING` as programmed (R41). -/
  bitTiming   : BitTiming
  /-- `TXMB`. -/
  txmb        : TxMailbox
  /-- `RXMB`. -/
  rxmb        : RxMailbox
  /-- `WIN`. -/
  win         : Window
  /-- The bytes of the caller's buffers (R44, R45). -/
  mem         : Memory
  /-- The capacities of the caller's buffers (R45). -/
  caps        : Capacities
  /-- The device→host wire: the frames the controller has put on it, oldest first (R49). -/
  wireOut     : List Frame
  /-- The host→device wire: the frames still to be delivered, oldest first (R49). -/
  wireIn      : List Frame
  /-- The MODEL'S own: the result of the last collaborator request presented on its own (log 8). -/
  primResult  : BitVec 16
  /-- The MODEL'S own: how many free bytes have been drawn (log 7). -/
  draws       : Nat
  /-- The MODEL'S own: the agents' coming moves; when none is listed the engine moves (log 3). -/
  schedule    : List Move
  deriving DecidableEq, Repr

/-- Eight zero bytes. -/
def Bytes8.zero : Bytes8 := ⟨0, 0, 0, 0, 0, 0, 0, 0⟩

/-- The state right after reset (R51): what the table gives, and zero for what it calls unspecified (DESIGN CHOICE, log 5). It is the
instance with `HANDLE` 0; another instance is this state with another handle (DESIGN CHOICE, log 10). -/
def State.reset : State where
  handle      := 0
  phase       := Phase.idle
  mPhase      := MPhase.idle
  busy        := false
  inited      := false
  fault       := false
  faultCode   := 0
  txSrc       := 0
  txCursor    := 0
  txRemaining := 0
  txFirst     := false
  txChunk     := 0
  rxDst       := 0
  rxOffset    := 0
  rxRemaining := 0
  rxLen       := 0
  mDst        := 0
  mOff        := 0
  mN          := 0
  mK          := 0
  mWord       := 0
  bitTiming   := ⟨0, 0, 0, 0⟩
  txmb        := { id := 0, filter := false, pending := false, data := Bytes8.zero, dlc := 0 }
  rxmb        := { id := 0, mask := 0, filter := false, newdat := false, data := Bytes8.zero, dlc := 0, arb := 0 }
  win         := { d := ⟨0, 0, 0, 0⟩, len := 0, arb := 0 }
  mem         := []
  caps        := []
  wireOut     := []
  wireIn      := []
  primResult  := 0
  draws       := 0
  schedule    := []

/-- What a step answers. -/
abbrev Result := Host.Outcome State Fault Refusal

end Sys2Proof.Machine
end

