-- ==== Sys2Proof/Machine/Operands.lean ====
section
/-! DEFINITION. The operand forms: the halves of a data register (30_encoding.md R91, R96), the bytes of a message object, the
registers of the window, the chunk size (R97), a frame's fields (R92) and a buffer's cells. -/

namespace Sys2Proof.Machine

/-- Bits 7:0 of a data register, payload byte `2k` (R91). -/
def loByte (r : Reg16) : Byte := r.extractLsb' 0 8

/-- Bits 15:8 of a data register, payload byte `2k+1` (R91). -/
def hiByte (r : Reg16) : Byte := r.extractLsb' 8 8

/-- `(hi << 8) | lo` (20_memory.md R65). -/
def joinBytes (hi lo : Byte) : Reg16 := hi ++ lo

/-- The bytes of a message object in order, byte 0 first (R92). -/
def Bytes8.toList (d : Bytes8) : List Byte := [d.b0, d.b1, d.b2, d.b3, d.b4, d.b5, d.b6, d.b7]

/-- Byte `i` of a message object. -/
def Bytes8.get (d : Bytes8) (i : Nat) : Byte := d.toList.getD i 0

/-- The eight bytes that `f` gives. -/
def Bytes8.ofFn (f : Nat → Byte) : Bytes8 := ⟨f 0, f 1, f 2, f 3, f 4, f 5, f 6, f 7⟩

/-- `WIN.D[k]` (20_memory.md R64). -/
def Regs4.get (d : Regs4) (k : BitVec 2) : Reg16 :=
  match k.toNat with
  | 0 => d.d0
  | 1 => d.d1
  | 2 => d.d2
  | _ => d.d3

/-- The data registers that hold a message object's bytes: register `k` holds byte `2k` low and byte `2k+1` high
(43_mailbox_primitives.md R202). -/
def Regs4.ofBytes (b : Bytes8) : Regs4 :=
  { d0 := joinBytes b.b1 b.b0, d1 := joinBytes b.b3 b.b2, d2 := joinBytes b.b5 b.b4, d3 := joinBytes b.b7 b.b6 }

/-- `zext_SIZE_W` of a length (00_scope.md section 7). -/
def zextSize (n : Len) : Size := n.setWidth 32

/-- `min(tx_remaining, 8)`: compared at `SIZE_W` bits, then narrowed (R97, 42_transmit.md R174). -/
def chunkSize (remaining : Size) : Len :=
  if remaining < 8#32 then remaining.setWidth 4 else 8#4

/-- A frame's payload has at most eight bytes (R92). -/
def Frame.wf (f : Frame) : Bool := decide (f.payload.length ≤ Config.frameMax)

/-- The frame in a transmit mailbox: its identifier and its first `dlc` bytes (43_mailbox_primitives.md R207, R211). -/
def TxMailbox.frame (t : TxMailbox) : Frame := { id := t.id, payload := t.data.toList.take t.dlc.toNat }

/-- The cell of byte `i` of buffer `h` (log 6). -/
def cellOf (h : Handle) (i : Size) : Nat := h * Config.sizeRange + i.toNat

/-- The codes of the model-level faults (60_exceptions.md R231). -/
def FaultCode.code : FaultCode → BitVec 4
  | .cmdIllegal => 1
  | .cmdWhileBusy => 2
  | .notInitialised => 3
  | .rxLengthIllegal => 4
  | .rxLengthOverrun => 5
  | .marshalRange => 6
  | .bufferRange => 7
  | .initTwice => 8
  | .txSubmitWhilePending => 9

end Sys2Proof.Machine
end

