-- ==== Sys2Proof/Machine/Flags.lean ====
section
/-! DEFINITION. The flags and what is computed from them: the mailbox conditions the engines poll, the acceptance filter, the
status word and the receive engine's two states. The engines set no condition codes (10_state.md R34). -/

namespace Sys2Proof.Machine

/-- The receive mailbox's "new data" condition (10_state.md R32). -/
def RxMailbox.newData (r : RxMailbox) : Bool := r.newdat

/-- "Ready for new data" is the complement of "transmit pending" (10_state.md R33). -/
def TxMailbox.ready (t : TxMailbox) : Bool := !t.pending

/-- `(frame.id & RXMB.mask) = (RXMB.id & RXMB.mask)` (10_state.md R37). -/
def RxMailbox.matches (r : RxMailbox) (id : Ident) : Bool := decide (id &&& r.mask = r.id &&& r.mask)

/-- The status word: bit 0 `busy`, bit 1 `inited`, bit 2 `fault`, bit 3 zero, bits 7:4 `fault_code`
(30_encoding.md R103). Reading it has no side effect. -/
def State.status (s : State) : BitVec 8 :=
  s.faultCode ++ 0#1 ++ BitVec.ofBool s.fault ++ BitVec.ofBool s.inited ++ BitVec.ofBool s.busy

/-- The two states of the receive engine (10_state.md R30). -/
inductive RxState where
  | idlePoll
  | draining
  deriving DecidableEq, Repr

/-- The receive engine's state, a function of `phase`; none where the spec leaves it undefined (10_state.md R30). -/
def State.rxState (s : State) : Option RxState :=
  if s.phase = Phase.rxPoll then some .idlePoll
  else if s.phase = Phase.rxReq ∨ s.phase = Phase.rxLen ∨ s.phase = Phase.rxCopy ∨ s.phase = Phase.rxRearm
    ∨ s.phase = Phase.rxAcct then some .draining
  else none

end Sys2Proof.Machine
end

