-- ==== Sys2Proof/Machine/Ops.lean ====
section
/-! DEFINITION. The named operations the meanings are written with: the caller's buffers, raising a model-level fault, command
acceptance, the marshalling run's start and end, and the collaborator primitives. -/

namespace Sys2Proof.Machine

/-! ### Sparse tables: keys strictly rising, no entry equal to the default -/

/-- The value at key `a`; an unlisted key reads as the default `d`. -/
def Cells.read {β : Type} (d : β) : List (Nat × β) → Nat → β
  | [], _ => d
  | (b, v) :: t, a => if b = a then v else Cells.read d t a

/-- Writing `v` at key `a`; writing the default removes the entry. -/
def Cells.write {β : Type} [DecidableEq β] (d : β) : List (Nat × β) → Nat → β → List (Nat × β)
  | [], a, v => if v = d then [] else [(a, v)]
  | (b, w) :: t, a, v =>
    if a < b then (if v = d then (b, w) :: t else (a, v) :: (b, w) :: t)
    else if a = b then (if v = d then t else (a, v) :: t)
    else (b, w) :: Cells.write d t a v

/-- The canonical form. -/
def Cells.wf {β : Type} [DecidableEq β] (d : β) : List (Nat × β) → Bool
  | [] => true
  | (a, v) :: t => decide (v ≠ d) && t.all (fun c => decide (a < c.1)) && Cells.wf d t

/-- What a byte of a buffer that nothing has written reads as (log 6). -/
def Memory.unlisted : Byte := 0

/-- The canonical form of memory. -/
def Memory.wf (m : Memory) : Bool := Cells.wf Memory.unlisted m

/-- Read one cell. -/
def Memory.read (m : Memory) (a : Nat) : Byte := Cells.read Memory.unlisted m a

/-- Write one cell. -/
def Memory.write (m : Memory) (a : Nat) (v : Byte) : Memory := Cells.write Memory.unlisted m a v

/-- Write consecutive cells from `a`. -/
def Memory.writeAll (m : Memory) (a : Nat) : List Byte → Memory
  | [] => m
  | b :: bs => Memory.writeAll (Memory.write m a b) (a + 1) bs

/-! ### The caller's buffers (20_memory.md R61 to R63) -/

/-- `cap(h)`: the number of bytes of buffer `h` (10_state.md R45). -/
def State.cap (s : State) (h : Handle) : Nat := Cells.read 0 s.caps h

/-- The byte at index `i` of buffer `h`. -/
def State.byteAt (s : State) (h : Handle) (i : Size) : Byte := s.mem.read (cellOf h i)

/-- `BufRead(h, i)` (R61, R63). -/
def bufRead (h : Handle) (i : Size) (s : State) : Except FaultCode Byte :=
  if i.toNat < s.cap h then .ok (s.byteAt h i) else .error .bufferRange

/-- `BufWrite(h, i, v)` (R62, R63). -/
def bufWrite (h : Handle) (i : Size) (v : Byte) (s : State) : Except FaultCode State :=
  if i.toNat < s.cap h then .ok { s with mem := s.mem.write (cellOf h i) v } else .error .bufferRange

/-! ### Taking a model-level fault (60_exceptions.md R232); there is no return from one (R240) -/

/-- `raise Fault(code)`: the first fault is recorded, the engine goes to FAULTED, a marshalling run is dropped; `busy` keeps
its value, and so does everything the faulting step would have written (R232). -/
def raise (c : FaultCode) (s : State) : State :=
  { s with
    fault := true
    faultCode := if s.fault then s.faultCode else c.code
    phase := Phase.faulted
    mPhase := MPhase.idle }

/-- A step's result: its writes, or the fault it raises in the state it started from. -/
def attempt (r : Except FaultCode State) (s : State) : Result :=
  match r with
  | .ok t => .next t
  | .error c => .next (raise c s)

/-- The command port (30_encoding.md R101, R108; 60_exceptions.md R232, R238): in FAULTED it accepts nothing, a command
presented while `busy` raises `CmdWhileBusy`, and otherwise the command is taken. -/
def accept (taken : Except FaultCode State) (s : State) : Result :=
  if s.phase = Phase.faulted then .next s
  else if s.busy then .next (raise .cmdWhileBusy s)
  else attempt taken s

/-! ### The marshalling run's start and end (40_marshalling.md R124) -/

/-- `EndRun()`: back to the receive engine, or a MARSHAL command completes. -/
def endRun (s : State) : State :=
  { s with
    mPhase := MPhase.idle
    phase := if s.phase = Phase.rxCopy then Phase.rxRearm else s.phase
    busy := if s.phase = Phase.rxCopy then s.busy else false }

/-- `MarshalStart(dst, off, n)`. -/
def marshalStart (dst : Handle) (off : Size) (n : BitVec 4) (s : State) : State :=
  if n = 0 then endRun { s with mDst := dst, mOff := off, mN := n, mK := 0 }
  else { s with mDst := dst, mOff := off, mN := n, mK := 0, mPhase := MPhase.fetch }

/-! ### The collaborator primitives (43_mailbox_primitives.md R201 to R209) -/

/-- `MB_RX_NEWDAT` (R201). -/
def mbRxNewdat (s : State) : Bool := s.rxmb.newData

/-- `MB_RX_REQUEST`: latch data, length and arbitration of one frame into the window (R202). -/
def mbRxRequest (s : State) : State :=
  { s with win := { d := Regs4.ofBytes s.rxmb.data, len := s.rxmb.dlc, arb := s.rxmb.arb } }

/-- `MB_RX_LEN` (R203). -/
def mbRxLen (s : State) : Len := s.win.len

/-- `MB_RX_DATA(k)`: one atomic 16-bit fetch (R204). -/
def mbRxData (k : BitVec 2) (s : State) : Reg16 := s.win.d.get k

/-- `MB_RX_REARM` (R205). -/
def mbRxRearm (s : State) : State := { s with rxmb := { s.rxmb with newdat := false } }

/-- `MB_TX_READY` (R206). -/
def mbTxReady (s : State) : Bool := s.txmb.ready

/-- Every index the descriptor names is inside its buffer (R207, 20_memory.md R63). -/
def descInRange (d : TxDesc) (s : State) : Bool :=
  (List.range d.count.toNat).all fun i => decide ((d.index + BitVec.ofNat 32 i).toNat < s.cap d.buf)

/-- The bytes a descriptor puts in the mailbox: the first `count` are the buffer's, the others are not written (R207). -/
def descData (d : TxDesc) (s : State) : Bytes8 :=
  Bytes8.ofFn fun i => if i < d.count.toNat then s.byteAt d.buf (d.index + BitVec.ofNat 32 i) else s.txmb.data.get i

/-- `MB_TX_SUBMIT(desc)`: a pending frame is found before a bad index (R207, 60_exceptions.md R238). -/
def mbTxSubmit (d : TxDesc) (s : State) : Except FaultCode State :=
  if s.txmb.pending then .error .txSubmitWhilePending
  else if descInRange d s then
    .ok { s with txmb := { s.txmb with data := descData d s, dlc := d.count, pending := true } }
  else .error .bufferRange

/-- A step that submits a descriptor and then writes what `after` says; a count above 8 has no bytes in the mailbox to go
to (log 11). -/
def submitThen (d : TxDesc) (after : State → State) (s : State) : Result :=
  if !s.txmb.pending && decide (Config.frameMax < d.count.toNat) then .fault (.mailboxRange d.count)
  else attempt ((mbTxSubmit d s).map after) s

/-- `DELAY`: a wait of `ticks` that changes no state and takes no modelled time (R209; log 10). -/
def delayFor (_ticks : Nat) (s : State) : State := s

/-- `MB_INIT`: bit timing programmed, the two mailboxes configured, both flags clear (R208). -/
def mbInit (s : State) : State :=
  { s with
    bitTiming := Config.bitTiming s.handle
    txmb := { s.txmb with id := Config.txId, filter := Config.txFilter, pending := false }
    rxmb := { s.rxmb with id := Config.rxId, mask := Config.rxMask, filter := Config.rxFilter, newdat := false } }

/-- The answer to a collaborator request presented on its own (log 8). -/
def answer (v : BitVec 16) (s : State) : State := { s with primResult := v }

end Sys2Proof.Machine
end

