-- ==== Sys2Proof/Machine/Commands.lean ====
section
/-! DEFINITION. The four host commands, as they are executed when presented on the command port (30_encoding.md R101). -/

namespace Sys2Proof.Machine

/-- `INIT` (43_mailbox_primitives.md R200). -/
def takeInit (s : State) : Except FaultCode State :=
  if s.inited then .error .initTwice
  else .ok { mbInit s with inited := true }

/-- `RECEIVE size, dst` (41_receive.md R141). -/
def takeReceive (size : Size) (dst : Handle) (s : State) : Except FaultCode State :=
  if !s.inited then .error .notInitialised
  else if size = 0 then .ok { s with rxDst := dst, rxOffset := 0, rxRemaining := size, phase := Phase.idle }
  else .ok { s with rxDst := dst, rxOffset := 0, rxRemaining := size, busy := true, phase := Phase.rxPoll }

/-- `TRANSMIT size, src` (42_transmit.md R171). -/
def takeTransmit (size : Size) (src : Handle) (s : State) : Except FaultCode State :=
  if !s.inited then .error .notInitialised
  else if size = 0 then
    .ok { s with txSrc := src, txCursor := 0, txRemaining := size, txFirst := true, phase := Phase.idle }
  else
    .ok { s with txSrc := src, txCursor := 0, txRemaining := size, txFirst := true, busy := true, phase := Phase.txWait }

/-- `MARSHAL n, dst` (40_marshalling.md R121). -/
def takeMarshal (n : Size) (dst : Handle) (s : State) : Except FaultCode State :=
  if 8#32 < n then .error .marshalRange
  else .ok (marshalStart dst 0 (n.setWidth 4) { s with busy := true })

/-- `INIT`: takes no operand; `ARG_SIZE` and `ARG_BUF` are ignored. -/
def execInit (s : State) : Result := accept (takeInit s) s

/-- `RECEIVE`. -/
def execReceive (size : Size) (dst : Handle) (s : State) : Result := accept (takeReceive size dst s) s

/-- `TRANSMIT`. -/
def execTransmit (size : Size) (src : Handle) (s : State) : Result := accept (takeTransmit size src s) s

/-- `MARSHAL`. -/
def execMarshal (n : Size) (dst : Handle) (s : State) : Result := accept (takeMarshal n dst s) s

end Sys2Proof.Machine
end

