-- ==== Sys2Proof/Machine/Marshal.lean ====
section
/-! DEFINITION. The two micro-operations of Register Marshalling (40_marshalling.md R122, R123). -/

namespace Sys2Proof.Machine

/-- `M_FETCH`: one atomic fetch of data register `m_k` (R122). -/
def execMFetch (s : State) : Result :=
  if s.mK.toNat < Config.nreg then
    .next { s with mWord := mbRxData (s.mK.setWidth 2) s, mPhase := MPhase.emit }
  else .fault (.windowRange s.mK)

/-- The destination index of the low byte of the fetched register, modulo `2 ^ SIZE_W` (R123, R129). -/
def lowIndex (s : State) : Size := s.mOff + BitVec.ofNat 32 (2 * s.mK.toNat)

/-- The destination index of its high byte. -/
def highIndex (s : State) : Size := s.mOff + BitVec.ofNat 32 (2 * s.mK.toNat + 1)

/-- Is the high byte of the fetched register wanted? -/
def wantsHigh (s : State) : Bool := decide (2 * s.mK.toNat + 1 < s.mN.toNat)

/-- The stores of `M_EMIT`: the low byte, then, if it is wanted, the high byte (R123, 60_exceptions.md R238). -/
def emitBytes (s : State) : Except FaultCode State :=
  match bufWrite s.mDst (lowIndex s) (loByte s.mWord) s with
  | .error c => .error c
  | .ok t => if wantsHigh s then bufWrite s.mDst (highIndex s) (hiByte s.mWord) t else .ok t

/-- What `M_EMIT` does after its stores: the next register, or the end of the run (R123). -/
def emitNext (s : State) : State :=
  if 2 * (s.mK.toNat + 1) < s.mN.toNat then { s with mK := s.mK + 1, mPhase := MPhase.fetch }
  else endRun { s with mK := s.mK + 1 }

/-- `M_EMIT`: split the fetched word and store one or two bytes (R123). -/
def execMEmit (s : State) : Result := attempt ((emitBytes s).map emitNext) s

end Sys2Proof.Machine
end

