-- ==== Sys2Proof/Machine/Primitives.lean ====
section
/-! DEFINITION. The nine collaborator primitives as requests of their own (43_mailbox_primitives.md R201 to R209; log 8): the
same operations the micro-operations invoke, with the result left in `primResult`. -/

namespace Sys2Proof.Machine

/-- `MB_RX_NEWDAT`: result 1 bit (R201). -/
def execMbRxNewdat (s : State) : Result := .next (answer ((BitVec.ofBool (mbRxNewdat s)).setWidth 16) s)

/-- `MB_RX_REQUEST` (R202). -/
def execMbRxRequest (s : State) : Result := .next (mbRxRequest s)

/-- `MB_RX_LEN`: result 4 bits (R203). -/
def execMbRxLen (s : State) : Result := .next (answer ((mbRxLen s).setWidth 16) s)

/-- `MB_RX_DATA k`: result 16 bits (R204). -/
def execMbRxData (k : BitVec 2) (s : State) : Result := .next (answer (mbRxData k s) s)

/-- `MB_RX_REARM` (R205). -/
def execMbRxRearm (s : State) : Result := .next (mbRxRearm s)

/-- `MB_TX_READY`: result 1 bit (R206). -/
def execMbTxReady (s : State) : Result := .next (answer ((BitVec.ofBool (mbTxReady s)).setWidth 16) s)

/-- `MB_TX_SUBMIT desc` (R207). -/
def execMbTxSubmit (desc : TxDesc) (s : State) : Result := submitThen desc (fun t => t) s

/-- `DELAY`: no state change (R209). -/
def execDelay (s : State) : Result := .next (delayFor (Config.tIfd s.handle) s)

/-- `MB_INIT` (R208). -/
def execMbInit (s : State) : Result := .next (mbInit s)

end Sys2Proof.Machine
end

