-- ==== Sys2Proof/Machine/Receive.lean ====
section
/-! DEFINITION. The six micro-operations of the Blocking Receive Engine (41_receive.md R142 to R147). -/

namespace Sys2Proof.Machine

/-- `RX_POLL`: new data starts draining; otherwise zero bytes were produced and the engine polls again (R142). -/
def execRxPoll (s : State) : Result :=
  if mbRxNewdat s then .next { s with phase := Phase.rxReq }
  else .next { s with rxLen := 0, phase := Phase.rxPoll }

/-- `RX_REQ`: Draining (a), latch the frame (R143). -/
def execRxReq (s : State) : Result := .next { mbRxRequest s with phase := Phase.rxLen }

/-- `RX_LEN`: Draining (b), read the latched length and check it, illegal before overrun (R144, 60_exceptions.md R238). -/
def execRxLen (s : State) : Result :=
  if 8#4 < mbRxLen s then .next (raise .rxLengthIllegal s)
  else if s.rxRemaining < zextSize (mbRxLen s) then .next (raise .rxLengthOverrun s)
  else .next { s with rxLen := mbRxLen s, phase := Phase.rxCopy }

/-- `RX_COPY`: Draining (c), start the marshalling run (R145). -/
def execRxCopy (s : State) : Result := .next (marshalStart s.rxDst s.rxOffset s.rxLen s)

/-- `RX_REARM`: Draining (d), release the mailbox (R146). -/
def execRxRearm (s : State) : Result := .next { mbRxRearm s with phase := Phase.rxAcct }

/-- `RX_ACCT`: account for the frame; return when no byte remains, else poll (R147). -/
def execRxAcct (s : State) : Result :=
  let offset := s.rxOffset + zextSize s.rxLen
  let remaining := s.rxRemaining - zextSize s.rxLen
  if remaining = 0 then
    .next { s with rxOffset := offset, rxRemaining := remaining, phase := Phase.idle, busy := false }
  else .next { s with rxOffset := offset, rxRemaining := remaining, phase := Phase.rxPoll }

end Sys2Proof.Machine
end

