-- ==== Sys2Proof/Machine/Transmit.lean ====
section
/-! DEFINITION. The five micro-operations of the Blocking Transmit Engine (42_transmit.md R172 to R176). -/

namespace Sys2Proof.Machine

/-- `TX_WAIT`: the first frame of a call bypasses the readiness check, once; otherwise wait for the mailbox (R172). -/
def execTxWait (s : State) : Result :=
  if s.txFirst then .next { s with txFirst := false, phase := Phase.txDelay }
  else if mbTxReady s then .next { s with phase := Phase.txDelay }
  else .next { s with phase := Phase.txWait }

/-- `TX_DELAY`: the fixed inter-frame delay (R173). -/
def execTxDelay (s : State) : Result := .next { delayFor (Config.tIfd s.handle) s with phase := Phase.txChunk }

/-- `TX_CHUNK`: size the frame (R174). -/
def execTxChunk (s : State) : Result := .next { s with txChunk := chunkSize s.txRemaining, phase := Phase.txSubmit }

/-- The descriptor of the chunk at the cursor (30_encoding.md R95). -/
def chunkDesc (s : State) : TxDesc := { buf := s.txSrc, index := s.txCursor, count := s.txChunk }

/-- `TX_SUBMIT`: hand the chunk to the mailbox (R175). -/
def execTxSubmit (s : State) : Result :=
  submitThen (chunkDesc s) (fun t => { t with phase := Phase.txAdvance }) s

/-- `TX_ADVANCE`: move the cursor; return when no byte remains, else wait again (R176). -/
def execTxAdvance (s : State) : Result :=
  let cursor := s.txCursor + zextSize s.txChunk
  let remaining := s.txRemaining - zextSize s.txChunk
  if remaining = 0 then
    .next { s with txCursor := cursor, txRemaining := remaining, phase := Phase.idle, busy := false }
  else .next { s with txCursor := cursor, txRemaining := remaining, phase := Phase.txWait }

end Sys2Proof.Machine
end

