-- ==== Sys2Proof/Machine/Dispatch.lean ====
section
/-! DEFINITION. One arm per operation of spec/opcode_table.json. -/

namespace Sys2Proof.Machine

def exec (i : Instr) (s : State) : Host.Outcome State Fault Refusal :=
  match i with
  | .init => Sys2Proof.Machine.execInit s
  | .receive size dst => Sys2Proof.Machine.execReceive size dst s
  | .transmit size src => Sys2Proof.Machine.execTransmit size src s
  | .marshal n dst => Sys2Proof.Machine.execMarshal n dst s
  | .rxPoll => Sys2Proof.Machine.execRxPoll s
  | .rxReq => Sys2Proof.Machine.execRxReq s
  | .rxLen => Sys2Proof.Machine.execRxLen s
  | .rxCopy => Sys2Proof.Machine.execRxCopy s
  | .rxRearm => Sys2Proof.Machine.execRxRearm s
  | .rxAcct => Sys2Proof.Machine.execRxAcct s
  | .txWait => Sys2Proof.Machine.execTxWait s
  | .txDelay => Sys2Proof.Machine.execTxDelay s
  | .txChunk => Sys2Proof.Machine.execTxChunk s
  | .txSubmit => Sys2Proof.Machine.execTxSubmit s
  | .txAdvance => Sys2Proof.Machine.execTxAdvance s
  | .mFetch => Sys2Proof.Machine.execMFetch s
  | .mEmit => Sys2Proof.Machine.execMEmit s
  | .mbRxNewdat => Sys2Proof.Machine.execMbRxNewdat s
  | .mbRxRequest => Sys2Proof.Machine.execMbRxRequest s
  | .mbRxLen => Sys2Proof.Machine.execMbRxLen s
  | .mbRxData k => Sys2Proof.Machine.execMbRxData k s
  | .mbRxRearm => Sys2Proof.Machine.execMbRxRearm s
  | .mbTxReady => Sys2Proof.Machine.execMbTxReady s
  | .mbTxSubmit desc => Sys2Proof.Machine.execMbTxSubmit desc s
  | .delay => Sys2Proof.Machine.execDelay s
  | .mbInit => Sys2Proof.Machine.execMbInit s

end Sys2Proof.Machine
end

