-- ==== Sys2Proof/Machine/Environment.lean ====
section
/-! DEFINITION. The moves of the other agents: the controller, the peer, the caller's buffers and the external reset
(43_mailbox_primitives.md R210 to R214, 70_reset_and_hazards.md R260, R262). A move that is not enabled changes nothing
(log 12). -/

namespace Sys2Proof.Machine

/-- The message object's bytes after a delivery: the frame's, then free bytes of this instance (R210; log 7). -/
def deliveredData (f : Frame) (handle draws : Nat) : Bytes8 :=
  Bytes8.ofFn fun i => f.payload.getD i (Config.draw handle (draws + i))

/-- Storing an accepted frame in the receive mailbox (R210). -/
def storeFrame (f : Frame) (s : State) : State :=
  { s with
    rxmb := { s.rxmb with
      data := deliveredData f s.handle s.draws
      dlc := BitVec.ofNat 4 f.payload.length
      arb := f.id
      newdat := true }
    draws := s.draws + Config.frameMax }

/-- `ENV_RX_DELIVER`: enabled when initialised, with a frame on the wire and the mailbox drained (`PeerPaced`, log 9); a frame
that does not pass the filter is discarded (R210, 30_encoding.md R111). -/
def rxDeliver (s : State) : State :=
  match s.wireIn with
  | [] => s
  | f :: rest =>
    if s.inited && !s.rxmb.newdat then
      if s.rxmb.matches f.id then storeFrame f { s with wireIn := rest } else { s with wireIn := rest }
    else s

/-- `ENV_TX_COMPLETE`: enabled when a frame is pending; it goes on the wire (R211). -/
def txComplete (s : State) : State :=
  if s.txmb.pending then
    { s with wireOut := s.wireOut ++ [s.txmb.frame], txmb := { s.txmb with pending := false } }
  else s

/-- `ENV_PEER_SEND`: the peer sends any frame of at most eight bytes (R212). -/
def peerSend (f : Frame) (s : State) : State :=
  if f.wf then { s with wireIn := s.wireIn ++ [f] } else s

/-- The caller supplies buffer `h` with these bytes; not while a command runs (R214, 93_implementation_defined.md U18). -/
def lend (h : Handle) (bytes : List Byte) (s : State) : State :=
  if s.busy || decide (Config.sizeRange < bytes.length) then s
  else
    { s with
      caps := Cells.write 0 s.caps h bytes.length
      mem := s.mem.writeAll (cellOf h 0) bytes }

/-- External reset: every item at its reset value; the caller's buffers stay (70_reset_and_hazards.md R260, R262), and so do the
instance's handle and the model's own schedule and draw counter (log 13). -/
def externalReset (s : State) : State :=
  { State.reset with handle := s.handle, mem := s.mem, caps := s.caps, draws := s.draws, schedule := s.schedule }

end Sys2Proof.Machine
end

