-- ==== Sys2Proof/Machine/Sequencer.lean ====
section
/-! DEFINITION. What a step does before an operation runs: which agent moves, which operation a register or a port names, what
happens where none is named, and placing an operation where the next step finds it. -/

namespace Sys2Proof.Machine

/-- The agent that moves next (log 3). -/
def nextMove (s : State) : Move := s.schedule.headD .engine

/-- The state with that move taken off the schedule. -/
def popMove (s : State) : State := { s with schedule := s.schedule.tail }

/-- The engine's next micro-operation: none in FAULTED (60_exceptions.md R232), the marshalling one while `m_phase` is not
`M_IDLE`, else the one `phase` names (30_encoding.md R104, R105). -/
def fetchEngine (s : State) : Except Reject Instr :=
  if s.phase = Phase.faulted then .error .faulted
  else if s.mPhase = MPhase.idle then decodePhase s.phase
  else decodeMPhase s.mPhase

/-- The command a presented triple names (30_encoding.md R101, R102). -/
def fetchCommand (c : Command) : Except Reject Instr := decodeCmd c.cmd c.argSize c.argBuf

/-- A step whose code names no operation: IDLE and FAULTED wait; an illegal command raises `CmdIllegal` if the port takes it
(R108); the other reserved codes are refused (R109). -/
def rejected (r : Reject) (s : State) : Result :=
  match r with
  | .idle => .next s
  | .mIdle => .next s
  | .faulted => .next s
  | .cmdIllegal _ => accept (.error .cmdIllegal) s
  | .reservedPhase c => .refused (.reserved (.reservedPhase c))
  | .reservedMPhase c => .refused (.reserved (.reservedMPhase c))
  | .reservedPrim c => .refused (.reserved (.reservedPrim c))
  | .descCount c => .refused (.reserved (.descCount c))

/-- `s` with the instruction that the bits `w` name in format `f` placed where the next step takes it: presented on the command
port, held in `phase` or `m_phase`, or presented as a collaborator request (log 4). -/
def place (f : Format) (w : Nat) (s : State) : State :=
  match f with
  | .cmd =>
    { s with
      schedule := .command ⟨BitVec.ofNat 8 w, BitVec.ofNat 32 (w / 2 ^ 8), w / 2 ^ 40⟩ :: s.schedule }
  | .phase => { s with phase := BitVec.ofNat 4 w, mPhase := MPhase.idle, schedule := .engine :: s.schedule }
  | .mphase =>
    { s with
      mPhase := BitVec.ofNat 2 w
      phase := if s.phase = Phase.faulted then Phase.idle else s.phase
      schedule := .engine :: s.schedule }
  | .prim =>
    { s with
      busy := false
      schedule := .request (BitVec.ofNat 4 w) (BitVec.ofNat 2 (w / 2 ^ 4)) (wordDesc w) :: s.schedule }

end Sys2Proof.Machine
end

