-- ==== Sys2Proof/Machine/Step.lean ====
section
/-! DEFINITION. One step: the next move of the schedule, or the engine's when none is listed (20_memory.md R74; log 3). -/

namespace Sys2Proof.Machine

/-- Run what was fetched. -/
def runFetched (f : Except Reject Instr) (s : State) : Result :=
  match f with
  | .ok i => exec i s
  | .error r => rejected r s

/-- One move of one agent. A collaborator request presented on its own is taken only while no command runs
(43_mailbox_primitives.md R213; log 8). -/
def runMove (m : Move) (s : State) : Result :=
  match m with
  | .engine => runFetched (fetchEngine s) s
  | .command c => runFetched (fetchCommand c) s
  | .request sel k desc => if s.busy then .next s else runFetched (decodePrim sel k desc) s
  | .rxDeliver => .next (rxDeliver s)
  | .txComplete => .next (txComplete s)
  | .peerSend f => .next (peerSend f s)
  | .lend h bytes => .next (lend h bytes s)
  | .reset => .next (externalReset s)

/-- One step of the machine. -/
def step (s : State) : Host.Outcome State Fault Refusal := runMove (nextMove s) (popMove s)

/-- `s` with the instruction of a table word placed so that the next step runs it (log 4). -/
def State.withFetchWord (s : State) (nbits w : Nat) : State :=
  place (tableFormat nbits (w % 2 ^ nbits)) (w % 2 ^ nbits) s

end Sys2Proof.Machine
end

