-- ==== Sys2Proof/Machine/Loopback.lean ====
section
/-! DEFINITION. The loopback test double (43_mailbox_primitives.md R215): two instances of the block joined by a wire on which
A's device→host frames become B's host→device frames, in order, with the identifier rewritten from 0x2 to 0x5. -/

namespace Sys2Proof.Machine

/-- Two instances, "each with its own handle and state"; they share nothing but the wire (60_exceptions.md R244). -/
structure Pair where
  a : State
  b : State
  deriving DecidableEq, Repr

/-- Each instance has its own handle. Under it the free bytes of the two are values of `Config.draw` at different arguments, which
nothing relates, whatever the draw counters are (DESIGN CHOICE, logs 7 and 20). -/
def Pair.wf (p : Pair) : Bool := decide (p.a.handle ≠ p.b.handle)

/-- Two instances right after reset, A with handle 0 and B with handle 1 (DESIGN CHOICE, log 20). -/
def Pair.reset : Pair := { a := State.reset, b := { State.reset with handle := 1 } }

/-- Who moves: one of the instances, or the wire. -/
inductive PairMove where
  | stepA
  | stepB
  | relay
  deriving DecidableEq, Repr

/-- The identifier a frame of A has when it reaches B. -/
def relayedId (id : Ident) : Ident := if id = Config.txId then Config.rxId else id

/-- The oldest frame A has sent moves to B's wire. -/
def relayFrame (p : Pair) : Pair :=
  match p.a.wireOut with
  | [] => p
  | f :: rest =>
    { a := { p.a with wireOut := rest }
      b := { p.b with wireIn := p.b.wireIn ++ [{ f with id := relayedId f.id }] } }

/-- One move of the pair. A `reset` move of one instance empties that instance's own two lists and leaves the other's: of the joined wire
from A to B, resetting A drops the frames not yet relayed and resetting B the relayed ones not yet delivered. 70_reset_and_hazards.md
R260 does not say which part of a joined wire it empties (DESIGN CHOICE, log 21). -/
def pairMove (m : PairMove) (p : Pair) : Host.Outcome Pair Fault Refusal :=
  match m with
  | .stepA =>
    match step p.a with
    | .next t => .next { p with a := t }
    | .fault r => .fault r
    | .refused r => .refused r
  | .stepB =>
    match step p.b with
    | .next t => .next { p with b := t }
    | .fault r => .fault r
    | .refused r => .refused r
  | .relay => .next (relayFrame p)

end Sys2Proof.Machine
end

