-- ==== Sys2Proof/Safety.lean ====
section
/-! DEFINITION. What counts as a safe run, in the terms the claims use: the phases of each engine, the machine's invariant, and how far
a TRANSMIT or a RECEIVE has come. -/

namespace Sys2Proof.Machine

/-- No model-level fault is recorded (60_exceptions.md R232: "a model should state every claim under the premise"). -/
def State.noFault (s : State) : Prop := s.fault = false

/-- The phases of the receive engine (10_state.md R29). -/
@[simp] abbrev receivePhases : List (BitVec 4) :=
  [Phase.rxPoll, Phase.rxReq, Phase.rxLen, Phase.rxCopy, Phase.rxRearm, Phase.rxAcct]

/-- The phases of the transmit engine (10_state.md R29). -/
@[simp] abbrev transmitPhases : List (BitVec 4) :=
  [Phase.txWait, Phase.txDelay, Phase.txChunk, Phase.txSubmit, Phase.txAdvance]

/-- The phases some rule produces; 0x7, 0xD and 0xE are reserved (30_encoding.md R109). -/
@[simp] abbrev legalPhases : List (BitVec 4) := Phase.idle :: Phase.faulted :: receivePhases ++ transmitPhases

/-- The phase successor table (10_state.md R31): the phases an ENGINE micro-operation may lead to from each phase. -/
def successors (p : BitVec 4) : List (BitVec 4) :=
  if p = Phase.idle then [Phase.idle, Phase.faulted]
  else if p = Phase.rxPoll then [Phase.rxReq, Phase.rxPoll]
  else if p = Phase.rxReq then [Phase.rxLen]
  else if p = Phase.rxLen then [Phase.rxCopy, Phase.faulted]
  else if p = Phase.rxCopy then [Phase.rxCopy, Phase.rxRearm, Phase.faulted]
  else if p = Phase.rxRearm then [Phase.rxAcct]
  else if p = Phase.rxAcct then [Phase.idle, Phase.rxPoll]
  else if p = Phase.txWait then [Phase.txDelay, Phase.txWait]
  else if p = Phase.txDelay then [Phase.txChunk]
  else if p = Phase.txChunk then [Phase.txSubmit]
  else if p = Phase.txSubmit then [Phase.txAdvance, Phase.faulted]
  else if p = Phase.txAdvance then [Phase.idle, Phase.txWait]
  else [Phase.faulted]

/-- The invariant of the machine: what holds after reset and after every step, whatever the agents do. -/
structure State.Inv (s : State) : Prop where
  /-- Memory keeps its canonical form. -/
  mem_wf : s.mem.wf = true
  caps_wf : Cells.wf 0 s.caps = true
  /-- `phase` and `m_phase` never hold a reserved code (30_encoding.md R109). -/
  phase_legal : s.phase ∈ legalPhases
  mphase_legal : s.mPhase ≠ 3#2
  /-- A recorded fault and the phase FAULTED go together (60_exceptions.md R232). -/
  fault_iff : s.fault = true ↔ s.phase = Phase.faulted
  fault_code : if s.fault then 1 ≤ s.faultCode.toNat ∧ s.faultCode.toNat ≤ 9 else s.faultCode = 0
  /-- Between commands the engine is idle (10_state.md R28). -/
  idle_phase : s.busy = false → s.phase = Phase.idle ∨ s.phase = Phase.faulted
  /-- A command that runs in IDLE is a MARSHAL run (30_encoding.md R105). -/
  busy_idle : s.busy = true → s.phase = Phase.idle → s.mPhase ≠ MPhase.idle
  /-- A run goes on only in IDLE or RX_COPY, and has a register left to fetch or emit (30_encoding.md R105, 40_marshalling.md R122). -/
  run : s.mPhase ≠ MPhase.idle → (s.phase = Phase.idle ∨ s.phase = Phase.rxCopy) ∧ s.busy = true ∧
    2 * s.mK.toNat < s.mN.toNat ∧ s.mN.toNat ≤ Config.frameMax
  /-- Either engine runs only after initialisation (70_reset_and_hazards.md R266). -/
  engine_inited : s.phase ∈ receivePhases ++ transmitPhases → s.inited = true
  /-- The receive engine still wants bytes while it runs (41_receive.md R142). -/
  rx_wants : s.phase ∈ receivePhases → s.rxRemaining ≠ 0
  /-- From the poll that found it until the re-arm, the frame stays in the mailbox (43_mailbox_primitives.md R202, 41_receive.md
  R146). -/
  rx_held : s.phase ∈ [Phase.rxReq, Phase.rxLen, Phase.rxCopy, Phase.rxRearm] → s.rxmb.newdat = true
  /-- A frame being drained fits the bytes still wanted (41_receive.md R144). -/
  rx_len : s.phase ∈ [Phase.rxCopy, Phase.rxRearm, Phase.rxAcct] →
    s.rxLen.toNat ≤ Config.frameMax ∧ s.rxLen.toNat ≤ s.rxRemaining.toNat
  /-- The transmit engine still has bytes while it runs (42_transmit.md R174). -/
  tx_wants : s.phase ∈ transmitPhases → s.txRemaining ≠ 0
  /-- The chunk is `min(tx_remaining, 8)` (30_encoding.md R97). -/
  tx_chunk : s.phase ∈ [Phase.txSubmit, Phase.txAdvance] → s.txChunk = chunkSize s.txRemaining
  /-- Initialisation fixes identifiers, mask and filters for good (10_state.md R36, R37). -/
  configured : s.inited = true → s.txmb.id = Config.txId ∧ s.txmb.filter = Config.txFilter ∧ s.rxmb.id = Config.rxId ∧
    s.rxmb.mask = Config.rxMask ∧ s.rxmb.filter = Config.rxFilter
  /-- No mailbox, latched length or frame on a wire is longer than a frame may be (30_encoding.md R92). -/
  tx_dlc : s.txmb.dlc.toNat ≤ Config.frameMax
  rx_dlc : s.rxmb.dlc.toNat ≤ Config.frameMax
  win_len : s.win.len.toNat ≤ Config.frameMax
  out_wf : ∀ f ∈ s.wireOut, f.wf = true
  in_wf : ∀ f ∈ s.wireIn, f.wf = true

/-- The next move is a collaborator request of its own that the block refuses: a reserved selector or a descriptor out of range. -/
def State.refusedRequest (s : State) : Bool :=
  match nextMove s with
  | .request sel k desc => !s.busy && (match decodePrim sel k desc with | .ok _ => false | .error _ => true)
  | _ => false

/-! ### Bytes and frames of a transfer -/

/-- The first `n` bytes of buffer `h`. -/
def State.firstBytes (s : State) (h : Handle) (n : Nat) : List Byte :=
  (List.range n).map fun i => s.byteAt h (BitVec.ofNat 32 i)

/-- The frames that carry a byte string: slice `j` is bytes `8j` up to `8j+7` (42_transmit.md R177). -/
def segments (bytes : List Byte) : List Frame :=
  (List.range ((bytes.length + 7) / 8)).map fun j =>
    { id := Config.txId, payload := (bytes.drop (8 * j)).take 8 }

/-- The frames handed to the mailbox so far: those on the wire and the one still pending (10_state.md R47). -/
def State.handedOver (s : State) : List Frame :=
  s.wireOut ++ (if s.txmb.pending then [s.txmb.frame] else [])

/-- The payload the receive mailbox holds undrained. -/
def State.mailboxBytes (s : State) : List Byte :=
  if s.rxmb.newdat then s.rxmb.data.toList.take s.rxmb.dlc.toNat else []

/-- The payloads of the frames on the host→device wire that pass the filter, in order (30_encoding.md R111). -/
def State.wireBytes (s : State) : List Byte :=
  (s.wireIn.filter fun f => s.rxmb.matches f.id).flatMap Frame.payload

/-- The accepted bytes that have arrived or will arrive and are not drained yet, in arrival order. -/
def State.undrained (s : State) : List Byte := s.mailboxBytes ++ s.wireBytes

/-- What a move adds to the accepted bytes under way: the payload of a frame the peer sends, if it passes the filter. -/
def State.newBytes (s : State) : List Byte :=
  match nextMove s with
  | .peerSend f => if f.wf && s.rxmb.matches f.id then f.payload else []
  | _ => []

/-- A `TRANSMIT size, src` is running, and what it has handed over so far follows `base`: the slices of the source up to the
cursor, and in TX_ADVANCE up to the end of the chunk (42_transmit.md R177). -/
structure TxProgress (src : Handle) (size : Size) (base : List Frame) (s : State) : Prop where
  running : s.busy = true ∧ s.inited = true ∧ s.fault = false ∧ s.mPhase = MPhase.idle
  phase_tx : s.phase ∈ transmitPhases
  source : s.txSrc = src
  ident : s.txmb.id = Config.txId
  sum : s.txCursor.toNat + s.txRemaining.toNat = size.toNat
  wants : s.txRemaining ≠ 0
  aligned : 8 ∣ s.txCursor.toNat
  chunk : s.phase ∈ [Phase.txSubmit, Phase.txAdvance] → s.txChunk = chunkSize s.txRemaining
  first : s.txFirst = true → s.txCursor = 0 ∧ s.phase = Phase.txWait
  /-- Past the wait, a frame is still pending only if this is the first frame of the call (42_transmit.md R175). -/
  ready : s.phase ∈ [Phase.txDelay, Phase.txChunk, Phase.txSubmit] → s.txmb.pending = true → s.txCursor = 0
  frames : s.handedOver = base ++ segments (s.firstBytes src
    (s.txCursor.toNat + if s.phase = Phase.txAdvance then s.txChunk.toNat else 0))

/-- How many bytes of the frame being drained are already in the destination. -/
def State.copied (s : State) : Nat :=
  if s.phase = Phase.rxCopy ∧ s.mPhase ≠ MPhase.idle then 2 * s.mK.toNat
  else if s.phase = Phase.rxRearm ∨ s.phase = Phase.rxAcct then s.rxLen.toNat
  else 0

/-- A `RECEIVE size, dst` is running, and the bytes in the destination followed by the bytes not drained yet are `stream`
(41_receive.md R148). -/
structure RxProgress (dst : Handle) (size : Size) (stream : List Byte) (s : State) : Prop where
  running : s.busy = true ∧ s.inited = true ∧ s.fault = false
  phase_rx : s.phase ∈ receivePhases
  dest : s.rxDst = dst
  mem_wf : s.mem.wf = true
  sum : s.rxOffset.toNat + s.rxRemaining.toNat = size.toNat
  wants : s.rxRemaining ≠ 0
  frame_len : s.rxmb.dlc.toNat ≤ Config.frameMax ∧ ∀ f ∈ s.wireIn, f.wf = true
  held : s.phase ∈ [Phase.rxReq, Phase.rxLen, Phase.rxCopy, Phase.rxRearm] → s.rxmb.newdat = true
  latched : s.phase ∈ [Phase.rxLen, Phase.rxCopy, Phase.rxRearm] →
    s.win.d = Regs4.ofBytes s.rxmb.data ∧ s.win.len = s.rxmb.dlc
  len : s.phase ∈ [Phase.rxCopy, Phase.rxRearm] → s.rxLen = s.win.len
  fits : s.phase ∈ [Phase.rxCopy, Phase.rxRearm, Phase.rxAcct] →
    s.rxLen.toNat ≤ Config.frameMax ∧ s.rxLen.toNat ≤ s.rxRemaining.toNat
  run : s.mPhase ≠ MPhase.idle → s.phase = Phase.rxCopy ∧ s.mDst = dst ∧ s.mOff = s.rxOffset ∧ s.mN = s.rxLen ∧
    2 * s.mK.toNat < s.mN.toNat ∧ s.mPhase ≠ 3#2 ∧ (s.mPhase = MPhase.emit → s.mWord = s.win.d.get (s.mK.setWidth 2))
  bytes : s.firstBytes dst (s.rxOffset.toNat + s.copied) ++
    s.undrained.drop (if s.phase = Phase.rxAcct then 0 else s.copied) = stream

end Sys2Proof.Machine
end

