-- ==== Sys2Proof/Certificates/Slice0/Obligations.lean ====
section
/-! DEFINITION. The statements for the provers. An equation `exec i s = .next { s with … }` says all at once that the instruction
completes, what it writes, and that every other register, flag, mailbox field, wire and byte of memory is unchanged. -/

open Sys2Proof Sys2Proof.Machine

/-! ### Codes -/

/-- Encoding and then decoding a well-formed instruction gives it back, every operand at every value. The codes are
30_encoding.md's (sections 8, 10, 11); where the operands lie above them is the model's (log 2). -/
def Obligations.EncodeThenDecode : Prop :=
  ∀ i : Instr, i.wf = true → decode (encode i).1 (encode i).2 = .ok i

/-- A code names at most one operation of its format: a word that decodes has exactly that operation's format and code in its code
bits, and only well-formed operations are named (30_encoding.md sections 8, 10, 11). -/
def Obligations.DecodedWordHasTheCode : Prop :=
  ∀ (f : Format) (w : Nat) (i : Instr), decode f w = .ok i →
    i.format = f ∧ w % 2 ^ f.codeBits = i.code ∧ i.wf = true

/-- Words written out from the tables of 30_encoding.md decode to what the tables say (V-E2: `receive(10, dst)` is
`(0x02, 0x0000000A, dst)`). -/
def Obligations.TableWordsDecode : Prop :=
  decodeCmd 0x01#8 0x00000007#32 3 = .ok .init ∧
  decodeCmd 0x02#8 0x0000000A#32 5 = .ok (.receive 0x0000000A#32 5) ∧
  decodeCmd 0x03#8 0x0000000A#32 5 = .ok (.transmit 0x0000000A#32 5) ∧
  decodeCmd 0x04#8 0x00000005#32 5 = .ok (.marshal 0x00000005#32 5) ∧
  decodePhase 0b0100#4 = .ok .rxCopy ∧
  decodePhase 0b1011#4 = .ok .txSubmit ∧
  decodeMPhase 0b10#2 = .ok .mEmit ∧
  decodePrim 0b0011#4 0b10#2 ⟨0, 0, 0⟩ = .ok (.mbRxData 0b10#2) ∧
  decodePrim 0b0110#4 0b00#2 ⟨5, 8#32, 2#4⟩ = .ok (.mbTxSubmit ⟨5, 8#32, 2#4⟩)

/-- Exactly the reserved codes are rejected as reserved. A step on a reserved `phase` or `m_phase`, or on a request presented while no
command runs whose selector is reserved or whose descriptor's count is outside 1..8, is a refusal by name (30_encoding.md sections 6, 8
and 13; log 15; the schedule and the request are the model's, logs 3 and 8). A step on a reserved CMD code raises `CmdIllegal` instead:
`Obligations.CommandPortFaults`. -/
def Obligations.ReservedCodesAreRefused : Prop :=
  (∀ (c : BitVec 8) (n : Size) (h : Handle),
    decodeCmd c n h = .error (.cmdIllegal c) ↔ ¬ (1 ≤ c.toNat ∧ c.toNat ≤ 4)) ∧
  (∀ c : BitVec 4, decodePhase c = .error (.reservedPhase c) ↔ c = 0x7#4 ∨ c = 0xD#4 ∨ c = 0xE#4) ∧
  (∀ c : BitVec 2, decodeMPhase c = .error (.reservedMPhase c) ↔ c = 3#2) ∧
  (∀ (c : BitVec 4) (k : BitVec 2) (d : TxDesc), decodePrim c k d = .error (.reservedPrim c) ↔ 0x9#4 ≤ c) ∧
  (∀ s : State, nextMove s = .engine → s.mPhase = 0#2 → (s.phase = 0x7#4 ∨ s.phase = 0xD#4 ∨ s.phase = 0xE#4) →
    step s = .refused (.reserved (.reservedPhase s.phase))) ∧
  (∀ s : State, nextMove s = .engine → s.phase ≠ 0xF#4 → s.mPhase = 3#2 →
    step s = .refused (.reserved (.reservedMPhase 3#2))) ∧
  (∀ (s : State) (sel : BitVec 4) (k : BitVec 2) (d : TxDesc), s.schedule.head? = some (.request sel k d) → s.busy = false →
    0x9#4 ≤ sel → step s = .refused (.reserved (.reservedPrim sel))) ∧
  (∀ (s : State) (k : BitVec 2) (d : TxDesc), s.schedule.head? = some (.request 0x6#4 k d) → s.busy = false →
    ¬ (1 ≤ d.count.toNat ∧ d.count.toNat ≤ 8) → step s = .refused (.reserved (.descCount d.count)))

/-! ### The step -/

/-- A step runs the decoded operation on the state with the move taken off the schedule: the engine's (nothing scheduled, or its
move next) as `m_phase` or `phase` names it, a presented command, a request presented while no command runs
(30_encoding.md sections 8, 10, 11; the schedule is the model's, logs 3 and 8). A request presented while a command runs changes
nothing, whatever it names (43_mailbox_primitives.md section 6). -/
def Obligations.StepRunsTheDecodedOperation : Prop :=
  ∀ (s : State) (i : Instr),
    ((s.schedule = [] ∨ s.schedule.head? = some .engine) → s.phase ≠ 0xF#4 →
      ((s.mPhase = 0#2 → decodePhase s.phase = .ok i → step s = exec i { s with schedule := s.schedule.tail }) ∧
       (s.mPhase ≠ 0#2 → decodeMPhase s.mPhase = .ok i → step s = exec i { s with schedule := s.schedule.tail }))) ∧
    (∀ c : Command, s.schedule.head? = some (.command c) → decodeCmd c.cmd c.argSize c.argBuf = .ok i →
      step s = exec i { s with schedule := s.schedule.tail }) ∧
    (∀ (sel : BitVec 4) (k : BitVec 2) (d : TxDesc), s.schedule.head? = some (.request sel k d) → s.busy = false →
      decodePrim sel k d = .ok i → step s = exec i { s with schedule := s.schedule.tail }) ∧
    (∀ (sel : BitVec 4) (k : BitVec 2) (d : TxDesc), s.schedule.head? = some (.request sel k d) → s.busy = true →
      step s = .next { s with schedule := s.schedule.tail })

/-- A table word placed by the model's own placing (log 4) is what the very next step runs. -/
def Obligations.PlacedWordRunsNext : Prop :=
  ∀ (s : State) (nbits w : Nat) (i : Instr), decodeTableWord nbits w = some i →
    step (s.withFetchWord nbits w) = exec i (popMove (s.withFetchWord nbits w))

/-! ### Commands -/

/-- `INIT` on an idle block that is not initialised configures both mailboxes, clears both flags, programs the bit timing and
completes in the accepting step (43_mailbox_primitives.md section 1; the cleared flags are the spec's own decision D12; bit-timing
values are free, log 10). -/
def Obligations.InitConfigures : Prop :=
  ∀ s : State, s.phase ≠ 0xF#4 → s.busy = false → s.inited = false →
    exec .init s = .next { s with
      inited := true
      bitTiming := Config.bitTiming s.handle
      txmb := { s.txmb with id := 0x2#11, filter := false, pending := false }
      rxmb := { s.rxmb with id := 0x5#11, mask := 0x7FF#11, filter := true, newdat := false } }

/-- `RECEIVE` on an idle initialised block: with bytes wanted it starts polling at offset 0; with `size = 0` it completes at once
(41_receive.md section 2; the immediate return is the spec's own decision D7). -/
def Obligations.ReceiveStarts : Prop :=
  ∀ (size : Size) (dst : Handle) (s : State), s.phase ≠ 0xF#4 → s.busy = false → s.inited = true →
    exec (.receive size dst) s = .next (if size = 0
      then { s with rxDst := dst, rxOffset := 0, rxRemaining := size, phase := 0x0#4 }
      else { s with rxDst := dst, rxOffset := 0, rxRemaining := size, busy := true, phase := 0x1#4 })

/-- `TRANSMIT` on an idle initialised block: with bytes to send it waits for the mailbox with the first-transmit flag set; with
`size = 0` it completes at once and touches no mailbox (42_transmit.md section 2; the flag per call is decision D11). -/
def Obligations.TransmitStarts : Prop :=
  ∀ (size : Size) (src : Handle) (s : State), s.phase ≠ 0xF#4 → s.busy = false → s.inited = true →
    exec (.transmit size src) s = .next (if size = 0
      then { s with txSrc := src, txCursor := 0, txRemaining := size, txFirst := true, phase := 0x0#4 }
      else { s with txSrc := src, txCursor := 0, txRemaining := size, txFirst := true, busy := true, phase := 0x8#4 })

/-- `MARSHAL n` with `n ≤ 8` in IDLE: a run of `n` bytes to index 0 starts; with `n = 0` it completes at once; it needs no
initialisation (40_marshalling.md section 2; the command is the spec's own decision D36). -/
def Obligations.MarshalStarts : Prop :=
  ∀ (n : Size) (dst : Handle) (s : State), s.phase = 0x0#4 → s.busy = false → n.toNat ≤ 8 →
    exec (.marshal n dst) s = .next (if n = 0
      then { s with mDst := dst, mOff := 0, mN := 0, mK := 0, mPhase := 0#2, busy := false }
      else { s with mDst := dst, mOff := 0, mN := n.setWidth 4, mK := 0, mPhase := 1#2, busy := true })

/-- What raising a fault does, and nothing else (60_exceptions.md section 1; the mechanism is the spec's own decision D13): the first
code is kept, the phase is FAULTED, a run is dropped, `busy` keeps its value. -/
def Obligations.RaiseRecordsTheFirstFault : Prop :=
  (∀ (c : FaultCode) (s : State), raise c s = { s with
    fault := true, faultCode := (if s.fault then s.faultCode else c.code), phase := 0xF#4, mPhase := 0#2 }) ∧
  [FaultCode.cmdIllegal, .cmdWhileBusy, .notInitialised, .rxLengthIllegal, .rxLengthOverrun, .marshalRange, .bufferRange,
    .initTwice, .txSubmitWhilePending].map FaultCode.code = [1, 2, 3, 4, 5, 6, 7, 8, 9]

/-- Which fault a presented command raises, and in which order the checks win (60_exceptions.md section 3; 30_encoding.md section 13;
decisions D14, D26, D34): in FAULTED the port accepts nothing, then `CmdWhileBusy`, then `CmdIllegal`, then the command's own check. -/
def Obligations.CommandPortFaults : Prop :=
  ∀ (s : State) (c : Command), s.schedule.head? = some (.command c) →
    let p : State := { s with schedule := s.schedule.tail }
    (s.phase = 0xF#4 → step s = .next p) ∧
    (s.phase ≠ 0xF#4 → s.busy = true → step s = .next (raise .cmdWhileBusy p)) ∧
    (s.phase ≠ 0xF#4 → s.busy = false → ¬ (1 ≤ c.cmd.toNat ∧ c.cmd.toNat ≤ 4) →
      step s = .next (raise .cmdIllegal p)) ∧
    (s.phase ≠ 0xF#4 → s.busy = false → c.cmd = 0x01#8 → s.inited = true → step s = .next (raise .initTwice p)) ∧
    (s.phase ≠ 0xF#4 → s.busy = false → c.cmd = 0x02#8 ∨ c.cmd = 0x03#8 → s.inited = false →
      step s = .next (raise .notInitialised p)) ∧
    (s.phase ≠ 0xF#4 → s.busy = false → c.cmd = 0x04#8 → 8 < c.argSize.toNat → step s = .next (raise .marshalRange p))

/-! ### The receive engine -/

/-- `RX_POLL` (41_receive.md R142): new data starts draining and stays flagged; otherwise zero bytes were produced and the engine
polls again, without bound while no agent moves. The rule's bracketed inference, that bytes are still wanted whenever the engine polls,
is the invariant's (`Obligations.StepKeepsTheInvariant`). -/
def Obligations.RxPollWaitsForNewData : Prop :=
  decodePhase 0x1#4 = .ok .rxPoll ∧
  (∀ s : State, exec .rxPoll s = .next (if s.rxmb.newdat
    then { s with phase := 0x2#4 } else { s with rxLen := 0, phase := 0x1#4 })) ∧
  (∀ (s : State) (k : Nat), s.phase = 0x1#4 → s.mPhase = 0#2 → s.rxmb.newdat = false → s.schedule = [] →
    Host.Core.run core (k + 1) s = .next { s with rxLen := 0 })

/-- The mailbox-read request, whole (43_mailbox_primitives.md R202), as the engine's `RX_REQ` issues it and as a request of its own:
register `k` gets byte `2k` low and byte `2k+1` high, the length and the arbitration field those of the same frame; the new-data flag is
not cleared; the engine issues it only when the flag is set. -/
def Obligations.RequestLatchesOneFrame : Prop :=
  (∀ (k : BitVec 2) (d : TxDesc), decodePrim 0x1#4 k d = .ok .mbRxRequest) ∧
  (∀ s : State, ∃ w : Window,
    (∀ k : BitVec 2, (w.d.get k).toNat =
      256 * (s.rxmb.data.get (2 * k.toNat + 1)).toNat + (s.rxmb.data.get (2 * k.toNat)).toNat) ∧
    w.len = s.rxmb.dlc ∧ w.arb = s.rxmb.arb ∧
    exec .mbRxRequest s = .next { s with win := w } ∧
    exec .rxReq s = .next { s with win := w, phase := 0x3#4 }) ∧
  (∀ s : State, s.Inv → s.phase = 0x2#4 → s.rxmb.newdat = true)

/-- `RX_REQ` latches one whole frame: register `k` holds byte `2k` low and byte `2k+1` high, with the frame's length and
identifier; the new-data flag stays set (41_receive.md section 3, 43_mailbox_primitives.md section 2). -/
def Obligations.RxReqLatchesTheFrame : Prop :=
  ∀ s : State, ∃ t : State, exec .rxReq s = .next t ∧
    (∀ k : BitVec 2, (t.win.d.get k).toNat =
      256 * (s.rxmb.data.get (2 * k.toNat + 1)).toNat + (s.rxmb.data.get (2 * k.toNat)).toNat) ∧
    t.win.len = s.rxmb.dlc ∧ t.win.arb = s.rxmb.arb ∧
    t = { s with win := t.win, phase := 0x3#4 }

/-- `RX_LEN` on a length that is legal and fits the bytes still wanted (41_receive.md section 3). -/
def Obligations.RxLenTakesTheLength : Prop :=
  ∀ s : State, s.win.len.toNat ≤ 8 → s.win.len.toNat ≤ s.rxRemaining.toNat →
    exec .rxLen s = .next { s with rxLen := s.win.len, phase := 0x4#4 }

/-- `RX_LEN` on an illegal length, and on one that passes the bytes still wanted, in that order; nothing else is written
(41_receive.md section 3, 90_conflicts.md C1; both checks are the spec's own decisions D6 and D8). -/
def Obligations.RxLenRejectsTheLength : Prop :=
  (∀ s : State, 8 < s.win.len.toNat → exec .rxLen s = .next (raise .rxLengthIllegal s)) ∧
  (∀ s : State, s.win.len.toNat ≤ 8 → s.rxRemaining.toNat < s.win.len.toNat →
    exec .rxLen s = .next (raise .rxLengthOverrun s))

/-- `RX_COPY` starts a marshalling run at the running offset; a zero-length frame ends it in the same step
(41_receive.md section 3, 40_marshalling.md section 2). -/
def Obligations.RxCopyStartsTheRun : Prop :=
  ∀ s : State, s.phase = 0x4#4 → exec .rxCopy s = .next (if s.rxLen = 0
    then { s with mDst := s.rxDst, mOff := s.rxOffset, mN := 0, mK := 0, mPhase := 0#2, phase := 0x5#4 }
    else { s with mDst := s.rxDst, mOff := s.rxOffset, mN := s.rxLen, mK := 0, mPhase := 1#2 })

/-- `RX_REARM` clears the new-data flag and nothing else of the mailbox or window (41_receive.md section 3; one action for every
frame, the spec's own decision D24). -/
def Obligations.RxRearmReleasesTheMailbox : Prop :=
  ∀ s : State, exec .rxRearm s = .next { s with rxmb := { s.rxmb with newdat := false }, phase := 0x6#4 }

/-- `RX_ACCT`, whole (41_receive.md R147): the offset and the remaining count move by the frame's length; the call returns exactly
when nothing remains; the subtraction never passes zero; a zero-length frame leaves both and polls again. -/
def Obligations.RxAcctClosesTheLoop : Prop :=
  decodePhase 0x6#4 = .ok .rxAcct ∧
  (∀ s : State, exec .rxAcct s = .next (
    if s.rxRemaining - s.rxLen.setWidth 32 = 0
    then { s with rxOffset := s.rxOffset + s.rxLen.setWidth 32, rxRemaining := s.rxRemaining - s.rxLen.setWidth 32,
                  phase := 0x0#4, busy := false }
    else { s with rxOffset := s.rxOffset + s.rxLen.setWidth 32, rxRemaining := s.rxRemaining - s.rxLen.setWidth 32,
                  phase := 0x1#4 })) ∧
  (∀ s t : State, s.Inv → step s = .next t → t.phase = 0x6#4 → t.rxLen.toNat ≤ t.rxRemaining.toNat) ∧
  (∀ s : State, s.rxLen = 0 → s.rxRemaining ≠ 0 → exec .rxAcct s = .next { s with phase := 0x1#4 })

/-! ### The transmit engine -/

/-- `TX_WAIT`, whole (42_transmit.md R172): the first frame of a call bypasses the readiness check once, whatever the mailbox holds;
otherwise the engine waits while a frame is pending, without bound while no agent moves. -/
def Obligations.TxWaitBypassesOnce : Prop :=
  decodePhase 0x8#4 = .ok .txWait ∧
  (∀ s : State, s.txFirst = true → exec .txWait s = .next { s with txFirst := false, phase := 0x9#4 }) ∧
  (∀ s : State, s.txFirst = false → s.txmb.pending = false → exec .txWait s = .next { s with phase := 0x9#4 }) ∧
  (∀ s : State, s.txFirst = false → s.txmb.pending = true → exec .txWait s = .next { s with phase := 0x8#4 }) ∧
  (∀ (s : State) (k : Nat), s.phase = 0x8#4 → s.mPhase = 0#2 → s.txFirst = false → s.txmb.pending = true →
    s.schedule = [] → Host.Core.run core k s = .next s)

/-- `TX_DELAY` changes nothing but the phase (42_transmit.md section 3; that the delay takes no modelled time is the spec's own
decision D9). -/
def Obligations.TxDelayChangesOnlyThePhase : Prop :=
  ∀ s : State, exec .txDelay s = .next { s with phase := 0xA#4 }

/-- `TX_CHUNK`: `tx_chunk = min(tx_remaining, 8)`, computed from the remaining count of that frame, for every frame
(30_encoding.md R97). -/
def Obligations.TxChunkIsTheMinimum : Prop :=
  ∀ s : State, ∃ t : State, exec .txChunk s = .next t ∧ t.txChunk.toNat = min s.txRemaining.toNat 8 ∧
    t = { s with txChunk := t.txChunk, phase := 0xB#4 }

/-- `TX_SUBMIT` with the mailbox ready and the chunk inside the source: the mailbox holds the chunk's bytes in buffer order, its other
bytes and the source are unchanged, and the frame is pending (42_transmit.md section 3, 43_mailbox_primitives.md section 3). -/
def Obligations.TxSubmitFillsTheMailbox : Prop :=
  ∀ s : State, s.txmb.pending = false → s.txChunk.toNat ≤ 8 →
    (∀ i < s.txChunk.toNat, (s.txCursor + BitVec.ofNat 32 i).toNat < s.cap s.txSrc) →
    ∃ t : State, exec .txSubmit s = .next t ∧
      (∀ i < s.txChunk.toNat, t.txmb.data.get i = s.byteAt s.txSrc (s.txCursor + BitVec.ofNat 32 i)) ∧
      (∀ i, s.txChunk.toNat ≤ i → i < 8 → t.txmb.data.get i = s.txmb.data.get i) ∧
      t = { s with txmb := { s.txmb with data := t.txmb.data, dlc := s.txChunk, pending := true }, phase := 0xC#4 }

/-- `TX_SUBMIT` and `MB_TX_SUBMIT` onto a pending frame, and past the end of the source, in that order; the mailbox keeps what it held
(43_mailbox_primitives.md section 3, 90_conflicts.md C9 and C13; the spec's own decisions D27 and D31). -/
def Obligations.SubmitFaults : Prop :=
  (∀ s : State, s.txmb.pending = true → exec .txSubmit s = .next (raise .txSubmitWhilePending s)) ∧
  (∀ s : State, s.txmb.pending = false → s.txChunk.toNat ≤ 8 →
    (∃ i < s.txChunk.toNat, s.cap s.txSrc ≤ (s.txCursor + BitVec.ofNat 32 i).toNat) →
    exec .txSubmit s = .next (raise .bufferRange s)) ∧
  (∀ (d : TxDesc) (s : State), s.txmb.pending = true → exec (.mbTxSubmit d) s = .next (raise .txSubmitWhilePending s)) ∧
  (∀ (d : TxDesc) (s : State), s.txmb.pending = false → d.wf = true →
    (∃ i < d.count.toNat, s.cap d.buf ≤ (d.index + BitVec.ofNat 32 i).toNat) →
    exec (.mbTxSubmit d) s = .next (raise .bufferRange s))

/-- `TX_ADVANCE` moves the cursor and the remaining count by the chunk and returns exactly when nothing remains; it does not wait for
the frame to leave (42_transmit.md section 3). -/
def Obligations.TxAdvanceClosesTheLoop : Prop :=
  ∀ s : State, exec .txAdvance s = .next (
    if s.txRemaining - s.txChunk.setWidth 32 = 0
    then { s with txCursor := s.txCursor + s.txChunk.setWidth 32, txRemaining := s.txRemaining - s.txChunk.setWidth 32,
                  phase := 0x0#4, busy := false }
    else { s with txCursor := s.txCursor + s.txChunk.setWidth 32, txRemaining := s.txRemaining - s.txChunk.setWidth 32,
                  phase := 0x8#4 })

/-! ### Register Marshalling -/

/-- `M_FETCH` fetches data register `m_k` whole and changes nothing else (40_marshalling.md section 2). -/
def Obligations.MFetchReadsOneRegister : Prop :=
  ∀ s : State, s.mK.toNat < 4 →
    exec .mFetch s = .next { s with
      mWord := [s.win.d.d0, s.win.d.d1, s.win.d.d2, s.win.d.d3].getD s.mK.toNat 0
      mPhase := 2#2 }

/-- `M_EMIT`, whole (40_marshalling.md R123). Inside the buffer the low byte goes to index `m_off + 2 m_k`, the high byte, if it is
wanted, to the next index; every other cell of memory is unchanged; the run goes on with the next register or ends, in the receive
engine at RX_REARM, else by completing the MARSHAL command. An index at or past the capacity raises `BufferRange`, and a fault on the
high byte drops the low byte too. -/
def Obligations.MEmitStoresTheBytes : Prop :=
  decodeMPhase 0b10#2 = .ok .mEmit ∧
  (∀ s : State, lowIndex s = s.mOff + BitVec.ofNat 32 (2 * s.mK.toNat) ∧
    highIndex s = s.mOff + BitVec.ofNat 32 (2 * s.mK.toNat + 1)) ∧
  (∀ s : State, s.mem.wf = true → (lowIndex s).toNat < s.cap s.mDst →
    (2 * s.mK.toNat + 1 < s.mN.toNat → (highIndex s).toNat < s.cap s.mDst) →
    ∃ t : State, exec .mEmit s = .next t ∧
      (t.byteAt s.mDst (lowIndex s)).toNat = s.mWord.toNat % 256 ∧
      (2 * s.mK.toNat + 1 < s.mN.toNat → (t.byteAt s.mDst (highIndex s)).toNat = s.mWord.toNat / 256) ∧
      (∀ a : Nat, a ≠ cellOf s.mDst (lowIndex s) →
        (2 * s.mK.toNat + 1 < s.mN.toNat → a ≠ cellOf s.mDst (highIndex s)) → t.mem.read a = s.mem.read a) ∧
      t = (if 2 * (s.mK.toNat + 1) < s.mN.toNat
        then { s with mem := t.mem, mK := s.mK + 1, mPhase := 1#2 }
        else if s.phase = 0x4#4 then { s with mem := t.mem, mK := s.mK + 1, mPhase := 0#2, phase := 0x5#4 }
        else { s with mem := t.mem, mK := s.mK + 1, mPhase := 0#2, busy := false })) ∧
  (∀ s : State, (s.cap s.mDst ≤ (lowIndex s).toNat ∨
      (2 * s.mK.toNat + 1 < s.mN.toNat ∧ s.cap s.mDst ≤ (highIndex s).toNat)) →
    exec .mEmit s = .next (raise .bufferRange s))

/-- A whole marshalling run of `n ≤ 8` bytes inside the buffer, the engine alone moving (nothing is scheduled, log 3): after its `ceil(n/2)` fetch and emit pairs byte `i` of the run is
`(r[i/2] >> (8*(i%2))) & 0xFF` of the window, every other cell of memory and the window are unchanged, and the run has returned to the
receive engine or completed the command (40_marshalling.md section 3; two steps a register are the spec's own decisions D20 and D22). -/
def Obligations.MarshallingRunCopiesTheWindow : Prop :=
  ∀ (s : State) (dst : Handle) (off : Size) (n : BitVec 4), s.mem.wf = true → n.toNat ≤ 8 → s.schedule = [] →
    (s.phase = 0x0#4 ∨ s.phase = 0x4#4) → (∀ i < n.toNat, (off + BitVec.ofNat 32 i).toNat < s.cap dst) →
    ∃ t : State, Host.Core.run core (2 * ((n.toNat + 1) / 2)) (marshalStart dst off n s) = .next t ∧
      (∀ i < n.toNat, t.byteAt dst (off + BitVec.ofNat 32 i) =
        BitVec.ofNat 8 ((s.win.d.get (BitVec.ofNat 2 (i / 2))).toNat >>> (8 * (i % 2)))) ∧
      (∀ a : Nat, (∀ i < n.toNat, a ≠ cellOf dst (off + BitVec.ofNat 32 i)) → t.mem.read a = s.mem.read a) ∧
      t = { s with mem := t.mem, mDst := dst, mOff := off, mN := n, mK := t.mK, mWord := t.mWord, mPhase := 0#2
                   phase := (if s.phase = 0x4#4 then 0x5#4 else s.phase)
                   busy := (if s.phase = 0x4#4 then s.busy else false) }

/-- The high byte of a run's last register, when its count is odd, cannot influence the bytes stored or where the engine goes: two
states that differ in it alone emit alike (40_marshalling.md section 3). -/
def Obligations.DiscardedByteHasNoInfluence : Prop :=
  ∀ (s : State) (hi : Byte), s.mN.toNat = 2 * s.mK.toNat + 1 →
    ∀ t : State, exec .mEmit s = .next t →
      exec .mEmit { s with mWord := joinBytes hi (loByte s.mWord) } =
        .next { t with mWord := joinBytes hi (loByte s.mWord) }

/-! ### The collaborator primitives as requests of their own (log 8) -/

/-- The four reads answer the value they name and change nothing else (43_mailbox_primitives.md sections 2 and 3; reads without
side effect are the spec's own decision D16; the result's place is the model's, log 8). -/
def Obligations.PrimitiveReadsAnswer : Prop :=
  ∀ s : State,
    exec .mbRxNewdat s = .next { s with primResult := if s.rxmb.newdat then 1 else 0 } ∧
    exec .mbTxReady s = .next { s with primResult := if s.txmb.pending then 0 else 1 } ∧
    (∃ t, exec .mbRxLen s = .next t ∧ t.primResult.toNat = s.win.len.toNat ∧ t = { s with primResult := t.primResult }) ∧
    (∀ k : BitVec 2, exec (.mbRxData k) s =
      .next { s with primResult := [s.win.d.d0, s.win.d.d1, s.win.d.d2, s.win.d.d3].getD k.toNat 0 })

/-- `MB_RX_REQUEST`, `MB_RX_REARM`, `DELAY` and `MB_INIT`: the latch, the cleared flag, no change, the configuration
(43_mailbox_primitives.md sections 1, 2 and 4; decisions D9, D12, D24). -/
def Obligations.PrimitiveTriggersAct : Prop :=
  ∀ s : State,
    (∃ t, exec .mbRxRequest s = .next t ∧
      (∀ k : BitVec 2, (t.win.d.get k).toNat =
        256 * (s.rxmb.data.get (2 * k.toNat + 1)).toNat + (s.rxmb.data.get (2 * k.toNat)).toNat) ∧
      t.win.len = s.rxmb.dlc ∧ t.win.arb = s.rxmb.arb ∧ t = { s with win := t.win }) ∧
    exec .mbRxRearm s = .next { s with rxmb := { s.rxmb with newdat := false } } ∧
    exec .delay s = .next s ∧
    exec .mbInit s = .next { s with
      bitTiming := Config.bitTiming s.handle
      txmb := { s.txmb with id := 0x2#11, filter := false, pending := false }
      rxmb := { s.rxmb with id := 0x5#11, mask := 0x7FF#11, filter := true, newdat := false } }

/-- `MB_TX_SUBMIT` of a well-formed descriptor onto a ready mailbox, inside the buffer (43_mailbox_primitives.md section 3). -/
def Obligations.SubmitPrimitiveFillsTheMailbox : Prop :=
  ∀ (d : TxDesc) (s : State), d.wf = true → s.txmb.pending = false →
    (∀ i < d.count.toNat, (d.index + BitVec.ofNat 32 i).toNat < s.cap d.buf) →
    ∃ t : State, exec (.mbTxSubmit d) s = .next t ∧
      (∀ i < d.count.toNat, t.txmb.data.get i = s.byteAt d.buf (d.index + BitVec.ofNat 32 i)) ∧
      (∀ i, d.count.toNat ≤ i → i < 8 → t.txmb.data.get i = s.txmb.data.get i) ∧
      t = { s with txmb := { s.txmb with data := t.txmb.data, dlc := d.count, pending := true } }

/-! ### The environment -/

/-- `ENV_RX_DELIVER`: with the block initialised and the mailbox drained, the oldest frame on the wire leaves it; if it passes the
filter the mailbox holds its payload, length and identifier and flags new data, else it is gone; the bytes past its length are free
values (43_mailbox_primitives.md section 5; the guard is the premise PeerPaced, decision D15, log 9; log 7). -/
def Obligations.DeliverStoresAnAcceptedFrame : Prop :=
  ∀ (s : State) (f : Frame) (rest : List Frame), s.schedule.head? = some .rxDeliver → s.inited = true →
    s.rxmb.newdat = false → s.wireIn = f :: rest → f.payload.length ≤ 8 →
    (f.id &&& s.rxmb.mask ≠ s.rxmb.id &&& s.rxmb.mask →
      step s = .next { s with schedule := s.schedule.tail, wireIn := rest }) ∧
    (f.id &&& s.rxmb.mask = s.rxmb.id &&& s.rxmb.mask →
      ∃ t : State, step s = .next t ∧
        (∀ (i : Nat) (h : i < f.payload.length), t.rxmb.data.get i = f.payload[i]) ∧
        (∀ i, f.payload.length ≤ i → i < 8 → t.rxmb.data.get i = Config.draw s.handle (s.draws + i)) ∧
        t.rxmb.dlc.toNat = f.payload.length ∧
        t = { s with
          schedule := s.schedule.tail
          wireIn := rest
          draws := s.draws + 8
          rxmb := { s.rxmb with data := t.rxmb.data, dlc := t.rxmb.dlc, arb := f.id, newdat := true } })

/-- `ENV_RX_DELIVER` is not enabled before initialisation, on an empty wire, or while a frame is undrained: nothing moves
(43_mailbox_primitives.md section 5; the last is PeerPaced, decision D15, log 9; logs 3 and 12). -/
def Obligations.DeliverWaits : Prop :=
  ∀ s : State, s.schedule.head? = some .rxDeliver → (s.inited = false ∨ s.wireIn = [] ∨ s.rxmb.newdat = true) →
    step s = .next { s with schedule := s.schedule.tail }

/-- `ENV_TX_COMPLETE` puts the pending frame on the wire, its first `dlc` bytes under the mailbox's identifier, and clears the flag;
with nothing pending it does nothing (43_mailbox_primitives.md section 5). -/
def Obligations.CompleteSendsThePendingFrame : Prop :=
  ∀ s : State, s.schedule.head? = some .txComplete →
    (s.txmb.pending = true → step s = .next { s with
      schedule := s.schedule.tail
      wireOut := s.wireOut ++ [{ id := s.txmb.id, payload := s.txmb.data.toList.take s.txmb.dlc.toNat }]
      txmb := { s.txmb with pending := false } }) ∧
    (s.txmb.pending = false → step s = .next { s with schedule := s.schedule.tail })

/-- `ENV_PEER_SEND` appends any frame of at most eight bytes to the host→device wire (43_mailbox_primitives.md section 5). -/
def Obligations.PeerSendAppends : Prop :=
  ∀ (s : State) (f : Frame), s.schedule.head? = some (.peerSend f) → f.payload.length ≤ 8 →
    step s = .next { s with schedule := s.schedule.tail, wireIn := s.wireIn ++ [f] }

/-- A buffer the caller lends while no command runs has its length as capacity and reads back byte for byte; other buffers, and the
block, are unchanged; while a command runs the caller can lend nothing (10_state.md section 7, 43_mailbox_primitives.md section 6; the
move and the cell addresses are the model's, logs 3 and 6). -/
def Obligations.LentBufferReadsBack : Prop :=
  ∀ (s : State) (h : Handle) (bytes : List Byte), s.schedule.head? = some (.lend h bytes) → s.mem.wf = true →
    Cells.wf 0 s.caps = true → bytes.length ≤ 4294967296 →
    (s.busy = true → step s = .next { s with schedule := s.schedule.tail }) ∧
    (s.busy = false → ∃ t : State, step s = .next t ∧ t.cap h = bytes.length ∧
      (∀ (i : Nat) (hi : i < bytes.length), t.byteAt h (BitVec.ofNat 32 i) = bytes[i]) ∧
      (∀ h', h' ≠ h → t.cap h' = s.cap h' ∧ ∀ i, t.byteAt h' i = s.byteAt h' i) ∧
      t = { s with schedule := s.schedule.tail, caps := t.caps, mem := t.mem })

/-- External reset, in any state: the items the spec gives a value have it, both wires are empty, the caller's buffers stay
(70_reset_and_hazards.md section 1; the values are the spec's own decision D12; what stays of the model's own fields is log 13). -/
def Obligations.ResetLeavesTheStatedValues : Prop :=
  (State.reset.phase = 0x0#4 ∧ State.reset.busy = false ∧ State.reset.inited = false ∧ State.reset.fault = false ∧
    State.reset.faultCode = 0#4 ∧ State.reset.mPhase = 0#2 ∧ State.reset.wireOut = [] ∧ State.reset.wireIn = []) ∧
  (∀ s : State, s.schedule.head? = some .reset → ∃ t : State, step s = .next t ∧
    t.phase = 0x0#4 ∧ t.busy = false ∧ t.inited = false ∧ t.fault = false ∧ t.faultCode = 0#4 ∧ t.mPhase = 0#2 ∧
    t.wireOut = [] ∧ t.wireIn = [] ∧ (∀ h i, t.byteAt h i = s.byteAt h i) ∧ (∀ h, t.cap h = s.cap h) ∧
    t.schedule = s.schedule.tail)

/-- Where a location does not exist the model stops by name: window register 4 or more, a ninth mailbox byte; neither arises in a state
that meets the invariant (43_mailbox_primitives.md sections 2 and 3; log 11). -/
def Obligations.MissingLocationsStop : Prop :=
  (∀ s : State, 4 ≤ s.mK.toNat → exec .mFetch s = .fault (.windowRange s.mK)) ∧
  (∀ s : State, s.txmb.pending = false → 8 < s.txChunk.toNat → exec .txSubmit s = .fault (.mailboxRange s.txChunk)) ∧
  (∀ (d : TxDesc) (s : State), s.txmb.pending = false → 8 < d.count.toNat →
    exec (.mbTxSubmit d) s = .fault (.mailboxRange d.count))

/-! ### Rules of the whole machine -/

/-- The invariant holds after reset (10_state.md section 9; the unspecified values are the model's, log 5). -/
def Obligations.ResetMeetsTheInvariant : Prop :=
  State.reset.Inv

/-- Every step of every agent keeps the invariant: the memory's canonical form, legal phases, the fault record, idleness between
commands, the bounds of a run, of a frame being drained and of a chunk, and the mailboxes' configuration (10_state.md sections 2 to 8; a reset move
goes to the model's own values, logs 5 and 13). -/
def Obligations.StepKeepsTheInvariant : Prop :=
  ∀ s t : State, s.Inv → step s = .next t → t.Inv

/-- From every state that meets the invariant the machine takes a step, whatever is scheduled, but for a request presented on its own
that names nothing: no code, register number or length of a run is ever one the block refuses (60_exceptions.md section 1,
30_encoding.md section 13; a reset move goes to the model's own values, logs 5 and 13). -/
def Obligations.InvariantStatesNeverStop : Prop :=
  ∀ s : State, s.Inv → s.refusedRequest = false → ∃ t : State, step s = .next t ∧ t.Inv

/-- The phase successor table: an engine step leads only where the table says (10_state.md section 3). -/
def Obligations.EngineFollowsTheSuccessorTable : Prop :=
  ∀ s t : State, s.Inv → nextMove s = .engine → step s = .next t → t.phase ∈ successors s.phase

/-- A recorded fault, and its code, stay until reset, and in FAULTED the engine and the command port do nothing
(60_exceptions.md section 1; the spec's own decision D13). -/
def Obligations.FaultIsSticky : Prop :=
  (∀ s t : State, s.fault = true → nextMove s ≠ .reset → step s = .next t → t.fault = true ∧ t.faultCode = s.faultCode) ∧
  (∀ s : State, s.phase = 0xF#4 → nextMove s = .engine → step s = .next { s with schedule := s.schedule.tail }) ∧
  (∀ (s : State) (c : Command), s.phase = 0xF#4 → nextMove s = .command c →
    step s = .next { s with schedule := s.schedule.tail })

/-- Only `M_EMIT` and the caller change a byte of memory; `M_EMIT` changes at most the two cells its register goes to; no step of
the block changes a capacity (20_memory.md section 1). -/
def Obligations.OnlyEmitAndTheCallerWriteMemory : Prop :=
  ∀ s t : State, step s = .next t →
    (∀ h bytes, nextMove s ≠ .lend h bytes) →
    (¬ (nextMove s = .engine ∧ s.mPhase = 2#2) → t.mem = s.mem) ∧
    (∀ a : Nat, a ≠ cellOf s.mDst (lowIndex s) → a ≠ cellOf s.mDst (highIndex s) → t.mem.read a = s.mem.read a) ∧
    t.caps = s.caps

/-- The latched window changes only at a mailbox-read request of the engine's own, or one presented while no command runs, or at
reset (20_memory.md section 7). -/
def Obligations.WindowChangesOnlyAtARequest : Prop :=
  ∀ s t : State, step s = .next t → t.win ≠ s.win →
    (nextMove s = .engine ∧ s.phase = 0x2#4) ∨ (∃ k d, nextMove s = .request 0x1#4 k d ∧ s.busy = false) ∨
    nextMove s = .reset

/-- The mailbox flags: new data is set only by a delivery and cleared only by the re-arm, initialisation or reset; pending is set only
by a submit and cleared only by the controller's sending, initialisation or reset (10_state.md section 4, 20_memory.md section 9). -/
def Obligations.MailboxFlagsHaveOneSetter : Prop :=
  ∀ s t : State, step s = .next t →
    (s.rxmb.newdat = false → t.rxmb.newdat = true → nextMove s = .rxDeliver) ∧
    (s.rxmb.newdat = true → t.rxmb.newdat = false →
      (nextMove s = .engine ∧ s.phase = 0x5#4) ∨ (∃ k d, nextMove s = .request 0x4#4 k d) ∨
      (∃ k d, nextMove s = .request 0x8#4 k d) ∨ (∃ n h, nextMove s = .command ⟨0x01#8, n, h⟩) ∨ nextMove s = .reset) ∧
    (s.txmb.pending = false → t.txmb.pending = true →
      (nextMove s = .engine ∧ s.phase = 0xB#4) ∨ (∃ k d, nextMove s = .request 0x6#4 k d)) ∧
    (s.txmb.pending = true → t.txmb.pending = false →
      nextMove s = .txComplete ∨ (∃ k d, nextMove s = .request 0x8#4 k d) ∨
      (∃ n h, nextMove s = .command ⟨0x01#8, n, h⟩) ∨ nextMove s = .reset)

/-- Initialisation happens once and its configuration is fixed for the session: until reset no step of an initialised block, but for
the configuration primitive presented on its own, changes the identifiers, the mask, the filters or the bit timing
(70_reset_and_hazards.md section 3). -/
def Obligations.ConfigurationIsFixed : Prop :=
  ∀ s t : State, s.inited = true → nextMove s ≠ .reset → (∀ k d, nextMove s ≠ .request 0x8#4 k d) → step s = .next t →
    t.inited = true ∧ t.bitTiming = s.bitTiming ∧ t.txmb.id = s.txmb.id ∧ t.txmb.filter = s.txmb.filter ∧
    t.rxmb.id = s.rxmb.id ∧ t.rxmb.mask = s.rxmb.mask ∧ t.rxmb.filter = s.rxmb.filter

/-- While a command runs, position and remaining count always add up to the same size: `tx_cursor + tx_remaining` and
`rx_offset + rx_remaining` are unchanged by every step (10_state.md section 2). -/
def Obligations.PositionPlusRemainingIsTheSize : Prop :=
  ∀ s t : State, s.busy = true → nextMove s ≠ .reset → step s = .next t →
    t.txCursor + t.txRemaining = s.txCursor + s.txRemaining ∧
    t.rxOffset + t.rxRemaining = s.rxOffset + s.rxRemaining

/-- The receive engine's two states as a function of the phase, undefined elsewhere (10_state.md R30). -/
def Obligations.ReceiveStateOfThePhase : Prop :=
  ∀ s : State,
    (s.rxState = some .idlePoll ↔ s.phase = 0x1#4) ∧
    (s.rxState = some .draining ↔
      s.phase = 0x2#4 ∨ s.phase = 0x3#4 ∨ s.phase = 0x4#4 ∨ s.phase = 0x5#4 ∨ s.phase = 0x6#4) ∧
    (s.rxState = none ↔ ¬ (1 ≤ s.phase.toNat ∧ s.phase.toNat ≤ 6))

/-- The status word: bit 0 `busy`, bit 1 `inited`, bit 2 `fault`, bit 3 zero, bits 7:4 `fault_code` (30_encoding.md section 9; the port is
the spec's own, decisions D2 and D13). -/
def Obligations.StatusWordBits : Prop :=
  ∀ s : State, s.status.toNat =
    16 * s.faultCode.toNat + (if s.fault then 4 else 0) + (if s.inited then 2 else 0) + (if s.busy then 1 else 0)

/-! ### Whole transfers -/

/-- Transmission is segmentation, in every interleaving of the agents' moves, the caller leaving the buffers alone while the command
runs (a `lend` move then changes nothing: log 17, which this statement rests on). A TRANSMIT that is accepted has handed over nothing yet; every step but a
reset keeps what has been handed over equal to the slices of the source up to the cursor, or raises a fault, or completes the call with
exactly the slices of the whole source handed over, in order (42_transmit.md section 4). -/
def Obligations.TransmitHandsOverTheSlices : Prop :=
  (∀ (s : State) (size : Size) (src : Handle), s.Inv → s.phase = 0x0#4 → s.busy = false → s.inited = true → size ≠ 0 →
    ∃ t : State, exec (.transmit size src) s = .next t ∧ TxProgress src size s.handedOver t) ∧
  (∀ (s t : State) (src : Handle) (size : Size) (base : List Frame), TxProgress src size base s → nextMove s ≠ .reset →
    step s = .next t →
    TxProgress src size base t ∨ t.fault = true ∨
    (t.phase = 0x0#4 ∧ t.busy = false ∧ t.fault = false ∧
      t.handedOver = base ++ segments (t.firstBytes src size.toNat)))

/-- Transmission can complete: from the start of a frame with the mailbox ready and the source long enough there is a schedule of
moves of the engine and completions of the controller, and no others, on which the call returns without a fault, and the frames handed over are `ceil(size/8)` frames with
identifier 0x2, frame `j` carrying `min(size - 8j, 8)` bytes from index `8j` of the source (30_encoding.md section 7, 42_transmit.md section 4;
that the controller sends is the premise ControllerProgress, decision D30). -/
def Obligations.TransmitCanComplete : Prop :=
  ∀ (s : State) (src : Handle) (size : Size) (base : List Frame), TxProgress src size base s → s.phase = 0x8#4 →
    s.txmb.pending = false → size.toNat ≤ s.cap src →
    ∃ (sched : List Move) (k : Nat) (t : State) (fs : List Frame),
      (∀ m ∈ sched, m = .engine ∨ m = .txComplete) ∧
      Host.Core.run core k { s with schedule := sched } = .next t ∧
      t.phase = 0x0#4 ∧ t.busy = false ∧ t.fault = false ∧ t.handedOver = base ++ fs ∧
      fs.length = (size.toNat + 7) / 8 ∧
      ∀ (j : Nat) (hj : j < fs.length), fs[j].id = 0x2#11 ∧ fs[j].payload.length = min (size.toNat - 8 * j) 8 ∧
        ∀ (i : Nat) (hi : i < fs[j].payload.length), fs[j].payload[i] = s.byteAt src (BitVec.ofNat 32 (8 * j + i))

/-- Reception is reassembly, in every interleaving of the agents' moves, under PeerPaced (decision D15, log 9) and the caller leaving
the buffers alone while the command runs (log 17). A RECEIVE that is accepted has everything still to drain; every step but a reset
keeps the bytes in the destination followed by the accepted bytes not drained equal to the accepted bytes in arrival order (with what
the peer adds), or raises a fault, or completes the call with exactly the first `size` of them in the destination
(41_receive.md section 4, 20_memory.md section 7). -/
def Obligations.ReceiveWritesInArrivalOrder : Prop :=
  (∀ (s : State) (size : Size) (dst : Handle), s.Inv → s.phase = 0x0#4 → s.busy = false → s.inited = true → size ≠ 0 →
    ∃ t : State, exec (.receive size dst) s = .next t ∧ RxProgress dst size s.undrained t) ∧
  (∀ (s t : State) (dst : Handle) (size : Size) (stream : List Byte), RxProgress dst size stream s → nextMove s ≠ .reset →
    step s = .next t →
    RxProgress dst size (stream ++ s.newBytes) t ∨ t.fault = true ∨
    (t.phase = 0x0#4 ∧ t.busy = false ∧ t.fault = false ∧
      t.firstBytes dst size.toNat ++ t.undrained = stream ++ s.newBytes))

/-- Reception can complete: polling with an empty mailbox, a destination long enough and frames on the wire that pass the filter and
whose lengths add up to exactly the bytes still wanted, there is a schedule of moves of the engine and deliveries of the controller,
and no others, on which the call returns without a fault and the destination holds what it held up to the offset, then the frames'
payloads in order (41_receive.md section 4; that a frame waits on the wire until the mailbox is drained is the premise PeerPaced,
decision D15, log 9; that the controller delivers is the premise DeliveryProgress, decision D30). -/
def Obligations.ReceiveCanComplete : Prop :=
  ∀ (s : State) (dst : Handle) (size : Size) (stream : List Byte), RxProgress dst size stream s → s.phase = 0x1#4 →
    s.rxmb.newdat = false → size.toNat ≤ s.cap dst → (∀ f ∈ s.wireIn, s.rxmb.matches f.id = true) →
    (s.wireIn.flatMap Frame.payload).length = s.rxRemaining.toNat →
    ∃ (sched : List Move) (k : Nat) (t : State),
      (∀ m ∈ sched, m = .engine ∨ m = .rxDeliver) ∧
      Host.Core.run core k { s with schedule := sched } = .next t ∧
      t.phase = 0x0#4 ∧ t.busy = false ∧ t.fault = false ∧
      t.firstBytes dst size.toNat = s.firstBytes dst s.rxOffset.toNat ++ s.wireIn.flatMap Frame.payload

/-- The loopback wire loses, duplicates and reorders nothing: relaying a frame with the transmit identifier between two initialised
instances leaves B's accepted bytes followed by the payloads still on A's wire the same (43_mailbox_primitives.md section 6, 90_conflicts.md
C3 and C4; the test double is the spec's own decision D40). -/
def Obligations.LoopbackWireKeepsTheBytes : Prop :=
  ∀ p : Pair, p.b.Inv → p.b.inited = true → (∀ f ∈ p.a.wireOut, f.id = 0x2#11 ∧ f.wf = true) →
    ∃ q : Pair, pairMove .relay p = .next q ∧
      q.b.wireBytes ++ q.a.wireOut.flatMap Frame.payload = p.b.wireBytes ++ p.a.wireOut.flatMap Frame.payload ∧
      q.a = { p.a with wireOut := p.a.wireOut.tail } ∧ q.b = { p.b with wireIn := q.b.wireIn }

/-- Instances share nothing but the wire (60_exceptions.md section 9, 43_mailbox_primitives.md section 6). No step changes an instance's
handle, its name and the argument of its free values (log 10); a step of one of a pair is that instance's own step and leaves the other as
it is; the relay changes only A's outgoing and B's incoming wire; so two instances with different handles stay so, as the pair after reset
starts (the pair is the spec's own decision D40; its handles are the model's, log 20, and so is that a reset of one instance leaves the other's
part of the joined wire, log 21). -/
def Obligations.InstancesShareOnlyTheWire : Prop :=
  (∀ s t : State, step s = .next t → t.handle = s.handle) ∧
  (∀ p q : Pair, pairMove .stepA p = .next q ↔ step p.a = .next q.a ∧ q.b = p.b) ∧
  (∀ p q : Pair, pairMove .stepB p = .next q ↔ step p.b = .next q.b ∧ q.a = p.a) ∧
  (∀ p : Pair, ∃ q : Pair, pairMove .relay p = .next q ∧
    q.a = { p.a with wireOut := q.a.wireOut } ∧ q.b = { p.b with wireIn := q.b.wireIn }) ∧
  (∀ (m : PairMove) (p q : Pair), p.wf = true → pairMove m p = .next q → q.wf = true) ∧
  Pair.reset.wf = true
end

