-- ==== Sys2Proof/Laws/Operands.lean ====
section
/-! SUPPORT. The small lemmas of the operand forms. -/

namespace Sys2Proof.Machine

@[simp] theorem loByte_join (hi lo : Byte) : loByte (joinBytes hi lo) = lo := by
  ext i hi'
  simp only [loByte, joinBytes, BitVec.getElem_extractLsb', BitVec.getLsbD_append]
  simp [show i < 8 by omega]

@[simp] theorem hiByte_join (hi lo : Byte) : hiByte (joinBytes hi lo) = hi := by
  ext i hi'
  simp only [hiByte, joinBytes, BitVec.getElem_extractLsb', BitVec.getLsbD_append]
  simp [show i < 8 by omega]

theorem loByte_toNat (r : Reg16) : (loByte r).toNat = r.toNat % 256 := by
  simp [loByte]

theorem hiByte_toNat (r : Reg16) : (hiByte r).toNat = r.toNat / 256 := by
  have := r.isLt
  simp [hiByte, Nat.shiftRight_eq_div_pow]
  omega

@[simp] theorem zextSize_toNat (n : Len) : (zextSize n).toNat = n.toNat := by
  have := n.isLt
  simp [zextSize]
  omega

theorem chunkSize_toNat (r : Size) : (chunkSize r).toNat = min r.toNat 8 := by
  unfold chunkSize
  split
  · next h =>
    have h' : r.toNat < 8 := by simpa [BitVec.lt_def] using h
    simp
    omega
  · next h =>
    have h' : ¬ r.toNat < 8 := by simpa [BitVec.lt_def] using h
    simp
    omega

theorem chunkSize_le (r : Size) : (chunkSize r).toNat ≤ Config.frameMax := by
  rw [chunkSize_toNat]; exact Nat.min_le_right _ _

@[simp] theorem Bytes8.toList_length (d : Bytes8) : d.toList.length = 8 := rfl

/-- Byte `i` of eight bytes given by a function. -/
theorem Bytes8.get_ofFn (f : Nat → Byte) {i : Nat} (h : i < 8) : (Bytes8.ofFn f).get i = f i := by
  match i, h with
  | 0, _ | 1, _ | 2, _ | 3, _ | 4, _ | 5, _ | 6, _ | 7, _ => rfl

theorem Bytes8.toList_ofFn (f : Nat → Byte) : (Bytes8.ofFn f).toList = (List.range 8).map f := rfl

/-- The halves of a latched register are the mailbox's bytes `2k` and `2k+1` (43_mailbox_primitives.md R202). -/
theorem Regs4.loByte_ofBytes (b : Bytes8) (k : BitVec 2) : loByte ((Regs4.ofBytes b).get k) = b.get (2 * k.toNat) := by
  have hk := k.isLt
  rcases (by omega : k.toNat = 0 ∨ k.toNat = 1 ∨ k.toNat = 2 ∨ k.toNat = 3) with h | h | h | h <;>
    simp only [Regs4.get, h, Regs4.ofBytes, loByte_join] <;> rfl

theorem Regs4.hiByte_ofBytes (b : Bytes8) (k : BitVec 2) :
    hiByte ((Regs4.ofBytes b).get k) = b.get (2 * k.toNat + 1) := by
  have hk := k.isLt
  rcases (by omega : k.toNat = 0 ∨ k.toNat = 1 ∨ k.toNat = 2 ∨ k.toNat = 3) with h | h | h | h <;>
    simp only [Regs4.get, h, Regs4.ofBytes, hiByte_join] <;> rfl

end Sys2Proof.Machine
end

