-- ==== Sys2Proof/Laws/State.lean ====
section
/-! SUPPORT. One lemma per field per update of the state, so that no later proof unfolds one. -/

namespace Sys2Proof.Machine

/-! ### a model-level fault (60_exceptions.md R232) -/

@[simp] theorem raise_handle (c : FaultCode) (s : State) : (raise c s).handle = s.handle := rfl
@[simp] theorem raise_phase (c : FaultCode) (s : State) : (raise c s).phase = Phase.faulted := rfl
@[simp] theorem raise_mPhase (c : FaultCode) (s : State) : (raise c s).mPhase = MPhase.idle := rfl
@[simp] theorem raise_busy (c : FaultCode) (s : State) : (raise c s).busy = s.busy := rfl
@[simp] theorem raise_inited (c : FaultCode) (s : State) : (raise c s).inited = s.inited := rfl
@[simp] theorem raise_fault (c : FaultCode) (s : State) : (raise c s).fault = true := rfl
@[simp] theorem raise_faultCode (c : FaultCode) (s : State) : (raise c s).faultCode = (if s.fault then s.faultCode else c.code) := rfl
@[simp] theorem raise_txSrc (c : FaultCode) (s : State) : (raise c s).txSrc = s.txSrc := rfl
@[simp] theorem raise_txCursor (c : FaultCode) (s : State) : (raise c s).txCursor = s.txCursor := rfl
@[simp] theorem raise_txRemaining (c : FaultCode) (s : State) : (raise c s).txRemaining = s.txRemaining := rfl
@[simp] theorem raise_txFirst (c : FaultCode) (s : State) : (raise c s).txFirst = s.txFirst := rfl
@[simp] theorem raise_txChunk (c : FaultCode) (s : State) : (raise c s).txChunk = s.txChunk := rfl
@[simp] theorem raise_rxDst (c : FaultCode) (s : State) : (raise c s).rxDst = s.rxDst := rfl
@[simp] theorem raise_rxOffset (c : FaultCode) (s : State) : (raise c s).rxOffset = s.rxOffset := rfl
@[simp] theorem raise_rxRemaining (c : FaultCode) (s : State) : (raise c s).rxRemaining = s.rxRemaining := rfl
@[simp] theorem raise_rxLen (c : FaultCode) (s : State) : (raise c s).rxLen = s.rxLen := rfl
@[simp] theorem raise_mDst (c : FaultCode) (s : State) : (raise c s).mDst = s.mDst := rfl
@[simp] theorem raise_mOff (c : FaultCode) (s : State) : (raise c s).mOff = s.mOff := rfl
@[simp] theorem raise_mN (c : FaultCode) (s : State) : (raise c s).mN = s.mN := rfl
@[simp] theorem raise_mK (c : FaultCode) (s : State) : (raise c s).mK = s.mK := rfl
@[simp] theorem raise_mWord (c : FaultCode) (s : State) : (raise c s).mWord = s.mWord := rfl
@[simp] theorem raise_bitTiming (c : FaultCode) (s : State) : (raise c s).bitTiming = s.bitTiming := rfl
@[simp] theorem raise_txmb (c : FaultCode) (s : State) : (raise c s).txmb = s.txmb := rfl
@[simp] theorem raise_rxmb (c : FaultCode) (s : State) : (raise c s).rxmb = s.rxmb := rfl
@[simp] theorem raise_win (c : FaultCode) (s : State) : (raise c s).win = s.win := rfl
@[simp] theorem raise_mem (c : FaultCode) (s : State) : (raise c s).mem = s.mem := rfl
@[simp] theorem raise_caps (c : FaultCode) (s : State) : (raise c s).caps = s.caps := rfl
@[simp] theorem raise_wireOut (c : FaultCode) (s : State) : (raise c s).wireOut = s.wireOut := rfl
@[simp] theorem raise_wireIn (c : FaultCode) (s : State) : (raise c s).wireIn = s.wireIn := rfl
@[simp] theorem raise_primResult (c : FaultCode) (s : State) : (raise c s).primResult = s.primResult := rfl
@[simp] theorem raise_draws (c : FaultCode) (s : State) : (raise c s).draws = s.draws := rfl
@[simp] theorem raise_schedule (c : FaultCode) (s : State) : (raise c s).schedule = s.schedule := rfl

/-! ### the end of a marshalling run (40_marshalling.md R124) -/

@[simp] theorem endRun_handle (s : State) : (endRun s).handle = s.handle := rfl
@[simp] theorem endRun_phase (s : State) : (endRun s).phase = (if s.phase = Phase.rxCopy then Phase.rxRearm else s.phase) := rfl
@[simp] theorem endRun_mPhase (s : State) : (endRun s).mPhase = MPhase.idle := rfl
@[simp] theorem endRun_busy (s : State) : (endRun s).busy = (if s.phase = Phase.rxCopy then s.busy else false) := rfl
@[simp] theorem endRun_inited (s : State) : (endRun s).inited = s.inited := rfl
@[simp] theorem endRun_fault (s : State) : (endRun s).fault = s.fault := rfl
@[simp] theorem endRun_faultCode (s : State) : (endRun s).faultCode = s.faultCode := rfl
@[simp] theorem endRun_txSrc (s : State) : (endRun s).txSrc = s.txSrc := rfl
@[simp] theorem endRun_txCursor (s : State) : (endRun s).txCursor = s.txCursor := rfl
@[simp] theorem endRun_txRemaining (s : State) : (endRun s).txRemaining = s.txRemaining := rfl
@[simp] theorem endRun_txFirst (s : State) : (endRun s).txFirst = s.txFirst := rfl
@[simp] theorem endRun_txChunk (s : State) : (endRun s).txChunk = s.txChunk := rfl
@[simp] theorem endRun_rxDst (s : State) : (endRun s).rxDst = s.rxDst := rfl
@[simp] theorem endRun_rxOffset (s : State) : (endRun s).rxOffset = s.rxOffset := rfl
@[simp] theorem endRun_rxRemaining (s : State) : (endRun s).rxRemaining = s.rxRemaining := rfl
@[simp] theorem endRun_rxLen (s : State) : (endRun s).rxLen = s.rxLen := rfl
@[simp] theorem endRun_mDst (s : State) : (endRun s).mDst = s.mDst := rfl
@[simp] theorem endRun_mOff (s : State) : (endRun s).mOff = s.mOff := rfl
@[simp] theorem endRun_mN (s : State) : (endRun s).mN = s.mN := rfl
@[simp] theorem endRun_mK (s : State) : (endRun s).mK = s.mK := rfl
@[simp] theorem endRun_mWord (s : State) : (endRun s).mWord = s.mWord := rfl
@[simp] theorem endRun_bitTiming (s : State) : (endRun s).bitTiming = s.bitTiming := rfl
@[simp] theorem endRun_txmb (s : State) : (endRun s).txmb = s.txmb := rfl
@[simp] theorem endRun_rxmb (s : State) : (endRun s).rxmb = s.rxmb := rfl
@[simp] theorem endRun_win (s : State) : (endRun s).win = s.win := rfl
@[simp] theorem endRun_mem (s : State) : (endRun s).mem = s.mem := rfl
@[simp] theorem endRun_caps (s : State) : (endRun s).caps = s.caps := rfl
@[simp] theorem endRun_wireOut (s : State) : (endRun s).wireOut = s.wireOut := rfl
@[simp] theorem endRun_wireIn (s : State) : (endRun s).wireIn = s.wireIn := rfl
@[simp] theorem endRun_primResult (s : State) : (endRun s).primResult = s.primResult := rfl
@[simp] theorem endRun_draws (s : State) : (endRun s).draws = s.draws := rfl
@[simp] theorem endRun_schedule (s : State) : (endRun s).schedule = s.schedule := rfl

/-! ### the latch (43_mailbox_primitives.md R202) -/

@[simp] theorem mbRxRequest_handle (s : State) : (mbRxRequest s).handle = s.handle := rfl
@[simp] theorem mbRxRequest_phase (s : State) : (mbRxRequest s).phase = s.phase := rfl
@[simp] theorem mbRxRequest_mPhase (s : State) : (mbRxRequest s).mPhase = s.mPhase := rfl
@[simp] theorem mbRxRequest_busy (s : State) : (mbRxRequest s).busy = s.busy := rfl
@[simp] theorem mbRxRequest_inited (s : State) : (mbRxRequest s).inited = s.inited := rfl
@[simp] theorem mbRxRequest_fault (s : State) : (mbRxRequest s).fault = s.fault := rfl
@[simp] theorem mbRxRequest_faultCode (s : State) : (mbRxRequest s).faultCode = s.faultCode := rfl
@[simp] theorem mbRxRequest_txSrc (s : State) : (mbRxRequest s).txSrc = s.txSrc := rfl
@[simp] theorem mbRxRequest_txCursor (s : State) : (mbRxRequest s).txCursor = s.txCursor := rfl
@[simp] theorem mbRxRequest_txRemaining (s : State) : (mbRxRequest s).txRemaining = s.txRemaining := rfl
@[simp] theorem mbRxRequest_txFirst (s : State) : (mbRxRequest s).txFirst = s.txFirst := rfl
@[simp] theorem mbRxRequest_txChunk (s : State) : (mbRxRequest s).txChunk = s.txChunk := rfl
@[simp] theorem mbRxRequest_rxDst (s : State) : (mbRxRequest s).rxDst = s.rxDst := rfl
@[simp] theorem mbRxRequest_rxOffset (s : State) : (mbRxRequest s).rxOffset = s.rxOffset := rfl
@[simp] theorem mbRxRequest_rxRemaining (s : State) : (mbRxRequest s).rxRemaining = s.rxRemaining := rfl
@[simp] theorem mbRxRequest_rxLen (s : State) : (mbRxRequest s).rxLen = s.rxLen := rfl
@[simp] theorem mbRxRequest_mDst (s : State) : (mbRxRequest s).mDst = s.mDst := rfl
@[simp] theorem mbRxRequest_mOff (s : State) : (mbRxRequest s).mOff = s.mOff := rfl
@[simp] theorem mbRxRequest_mN (s : State) : (mbRxRequest s).mN = s.mN := rfl
@[simp] theorem mbRxRequest_mK (s : State) : (mbRxRequest s).mK = s.mK := rfl
@[simp] theorem mbRxRequest_mWord (s : State) : (mbRxRequest s).mWord = s.mWord := rfl
@[simp] theorem mbRxRequest_bitTiming (s : State) : (mbRxRequest s).bitTiming = s.bitTiming := rfl
@[simp] theorem mbRxRequest_txmb (s : State) : (mbRxRequest s).txmb = s.txmb := rfl
@[simp] theorem mbRxRequest_rxmb (s : State) : (mbRxRequest s).rxmb = s.rxmb := rfl
@[simp] theorem mbRxRequest_win (s : State) : (mbRxRequest s).win = { d := Regs4.ofBytes s.rxmb.data, len := s.rxmb.dlc, arb := s.rxmb.arb } := rfl
@[simp] theorem mbRxRequest_mem (s : State) : (mbRxRequest s).mem = s.mem := rfl
@[simp] theorem mbRxRequest_caps (s : State) : (mbRxRequest s).caps = s.caps := rfl
@[simp] theorem mbRxRequest_wireOut (s : State) : (mbRxRequest s).wireOut = s.wireOut := rfl
@[simp] theorem mbRxRequest_wireIn (s : State) : (mbRxRequest s).wireIn = s.wireIn := rfl
@[simp] theorem mbRxRequest_primResult (s : State) : (mbRxRequest s).primResult = s.primResult := rfl
@[simp] theorem mbRxRequest_draws (s : State) : (mbRxRequest s).draws = s.draws := rfl
@[simp] theorem mbRxRequest_schedule (s : State) : (mbRxRequest s).schedule = s.schedule := rfl

/-! ### the re-arm (R205) -/

@[simp] theorem mbRxRearm_handle (s : State) : (mbRxRearm s).handle = s.handle := rfl
@[simp] theorem mbRxRearm_phase (s : State) : (mbRxRearm s).phase = s.phase := rfl
@[simp] theorem mbRxRearm_mPhase (s : State) : (mbRxRearm s).mPhase = s.mPhase := rfl
@[simp] theorem mbRxRearm_busy (s : State) : (mbRxRearm s).busy = s.busy := rfl
@[simp] theorem mbRxRearm_inited (s : State) : (mbRxRearm s).inited = s.inited := rfl
@[simp] theorem mbRxRearm_fault (s : State) : (mbRxRearm s).fault = s.fault := rfl
@[simp] theorem mbRxRearm_faultCode (s : State) : (mbRxRearm s).faultCode = s.faultCode := rfl
@[simp] theorem mbRxRearm_txSrc (s : State) : (mbRxRearm s).txSrc = s.txSrc := rfl
@[simp] theorem mbRxRearm_txCursor (s : State) : (mbRxRearm s).txCursor = s.txCursor := rfl
@[simp] theorem mbRxRearm_txRemaining (s : State) : (mbRxRearm s).txRemaining = s.txRemaining := rfl
@[simp] theorem mbRxRearm_txFirst (s : State) : (mbRxRearm s).txFirst = s.txFirst := rfl
@[simp] theorem mbRxRearm_txChunk (s : State) : (mbRxRearm s).txChunk = s.txChunk := rfl
@[simp] theorem mbRxRearm_rxDst (s : State) : (mbRxRearm s).rxDst = s.rxDst := rfl
@[simp] theorem mbRxRearm_rxOffset (s : State) : (mbRxRearm s).rxOffset = s.rxOffset := rfl
@[simp] theorem mbRxRearm_rxRemaining (s : State) : (mbRxRearm s).rxRemaining = s.rxRemaining := rfl
@[simp] theorem mbRxRearm_rxLen (s : State) : (mbRxRearm s).rxLen = s.rxLen := rfl
@[simp] theorem mbRxRearm_mDst (s : State) : (mbRxRearm s).mDst = s.mDst := rfl
@[simp] theorem mbRxRearm_mOff (s : State) : (mbRxRearm s).mOff = s.mOff := rfl
@[simp] theorem mbRxRearm_mN (s : State) : (mbRxRearm s).mN = s.mN := rfl
@[simp] theorem mbRxRearm_mK (s : State) : (mbRxRearm s).mK = s.mK := rfl
@[simp] theorem mbRxRearm_mWord (s : State) : (mbRxRearm s).mWord = s.mWord := rfl
@[simp] theorem mbRxRearm_bitTiming (s : State) : (mbRxRearm s).bitTiming = s.bitTiming := rfl
@[simp] theorem mbRxRearm_txmb (s : State) : (mbRxRearm s).txmb = s.txmb := rfl
@[simp] theorem mbRxRearm_rxmb (s : State) : (mbRxRearm s).rxmb = { s.rxmb with newdat := false } := rfl
@[simp] theorem mbRxRearm_win (s : State) : (mbRxRearm s).win = s.win := rfl
@[simp] theorem mbRxRearm_mem (s : State) : (mbRxRearm s).mem = s.mem := rfl
@[simp] theorem mbRxRearm_caps (s : State) : (mbRxRearm s).caps = s.caps := rfl
@[simp] theorem mbRxRearm_wireOut (s : State) : (mbRxRearm s).wireOut = s.wireOut := rfl
@[simp] theorem mbRxRearm_wireIn (s : State) : (mbRxRearm s).wireIn = s.wireIn := rfl
@[simp] theorem mbRxRearm_primResult (s : State) : (mbRxRearm s).primResult = s.primResult := rfl
@[simp] theorem mbRxRearm_draws (s : State) : (mbRxRearm s).draws = s.draws := rfl
@[simp] theorem mbRxRearm_schedule (s : State) : (mbRxRearm s).schedule = s.schedule := rfl

/-! ### the configuration (R208) -/

@[simp] theorem mbInit_handle (s : State) : (mbInit s).handle = s.handle := rfl
@[simp] theorem mbInit_phase (s : State) : (mbInit s).phase = s.phase := rfl
@[simp] theorem mbInit_mPhase (s : State) : (mbInit s).mPhase = s.mPhase := rfl
@[simp] theorem mbInit_busy (s : State) : (mbInit s).busy = s.busy := rfl
@[simp] theorem mbInit_inited (s : State) : (mbInit s).inited = s.inited := rfl
@[simp] theorem mbInit_fault (s : State) : (mbInit s).fault = s.fault := rfl
@[simp] theorem mbInit_faultCode (s : State) : (mbInit s).faultCode = s.faultCode := rfl
@[simp] theorem mbInit_txSrc (s : State) : (mbInit s).txSrc = s.txSrc := rfl
@[simp] theorem mbInit_txCursor (s : State) : (mbInit s).txCursor = s.txCursor := rfl
@[simp] theorem mbInit_txRemaining (s : State) : (mbInit s).txRemaining = s.txRemaining := rfl
@[simp] theorem mbInit_txFirst (s : State) : (mbInit s).txFirst = s.txFirst := rfl
@[simp] theorem mbInit_txChunk (s : State) : (mbInit s).txChunk = s.txChunk := rfl
@[simp] theorem mbInit_rxDst (s : State) : (mbInit s).rxDst = s.rxDst := rfl
@[simp] theorem mbInit_rxOffset (s : State) : (mbInit s).rxOffset = s.rxOffset := rfl
@[simp] theorem mbInit_rxRemaining (s : State) : (mbInit s).rxRemaining = s.rxRemaining := rfl
@[simp] theorem mbInit_rxLen (s : State) : (mbInit s).rxLen = s.rxLen := rfl
@[simp] theorem mbInit_mDst (s : State) : (mbInit s).mDst = s.mDst := rfl
@[simp] theorem mbInit_mOff (s : State) : (mbInit s).mOff = s.mOff := rfl
@[simp] theorem mbInit_mN (s : State) : (mbInit s).mN = s.mN := rfl
@[simp] theorem mbInit_mK (s : State) : (mbInit s).mK = s.mK := rfl
@[simp] theorem mbInit_mWord (s : State) : (mbInit s).mWord = s.mWord := rfl
@[simp] theorem mbInit_bitTiming (s : State) : (mbInit s).bitTiming = Config.bitTiming s.handle := rfl
@[simp] theorem mbInit_txmb (s : State) : (mbInit s).txmb = { s.txmb with id := Config.txId, filter := Config.txFilter, pending := false } := rfl
@[simp] theorem mbInit_rxmb (s : State) : (mbInit s).rxmb = { s.rxmb with id := Config.rxId, mask := Config.rxMask, filter := Config.rxFilter, newdat := false } := rfl
@[simp] theorem mbInit_win (s : State) : (mbInit s).win = s.win := rfl
@[simp] theorem mbInit_mem (s : State) : (mbInit s).mem = s.mem := rfl
@[simp] theorem mbInit_caps (s : State) : (mbInit s).caps = s.caps := rfl
@[simp] theorem mbInit_wireOut (s : State) : (mbInit s).wireOut = s.wireOut := rfl
@[simp] theorem mbInit_wireIn (s : State) : (mbInit s).wireIn = s.wireIn := rfl
@[simp] theorem mbInit_primResult (s : State) : (mbInit s).primResult = s.primResult := rfl
@[simp] theorem mbInit_draws (s : State) : (mbInit s).draws = s.draws := rfl
@[simp] theorem mbInit_schedule (s : State) : (mbInit s).schedule = s.schedule := rfl

/-! ### the answer to a request (log 8) -/

@[simp] theorem answer_handle (v : BitVec 16) (s : State) : (answer v s).handle = s.handle := rfl
@[simp] theorem answer_phase (v : BitVec 16) (s : State) : (answer v s).phase = s.phase := rfl
@[simp] theorem answer_mPhase (v : BitVec 16) (s : State) : (answer v s).mPhase = s.mPhase := rfl
@[simp] theorem answer_busy (v : BitVec 16) (s : State) : (answer v s).busy = s.busy := rfl
@[simp] theorem answer_inited (v : BitVec 16) (s : State) : (answer v s).inited = s.inited := rfl
@[simp] theorem answer_fault (v : BitVec 16) (s : State) : (answer v s).fault = s.fault := rfl
@[simp] theorem answer_faultCode (v : BitVec 16) (s : State) : (answer v s).faultCode = s.faultCode := rfl
@[simp] theorem answer_txSrc (v : BitVec 16) (s : State) : (answer v s).txSrc = s.txSrc := rfl
@[simp] theorem answer_txCursor (v : BitVec 16) (s : State) : (answer v s).txCursor = s.txCursor := rfl
@[simp] theorem answer_txRemaining (v : BitVec 16) (s : State) : (answer v s).txRemaining = s.txRemaining := rfl
@[simp] theorem answer_txFirst (v : BitVec 16) (s : State) : (answer v s).txFirst = s.txFirst := rfl
@[simp] theorem answer_txChunk (v : BitVec 16) (s : State) : (answer v s).txChunk = s.txChunk := rfl
@[simp] theorem answer_rxDst (v : BitVec 16) (s : State) : (answer v s).rxDst = s.rxDst := rfl
@[simp] theorem answer_rxOffset (v : BitVec 16) (s : State) : (answer v s).rxOffset = s.rxOffset := rfl
@[simp] theorem answer_rxRemaining (v : BitVec 16) (s : State) : (answer v s).rxRemaining = s.rxRemaining := rfl
@[simp] theorem answer_rxLen (v : BitVec 16) (s : State) : (answer v s).rxLen = s.rxLen := rfl
@[simp] theorem answer_mDst (v : BitVec 16) (s : State) : (answer v s).mDst = s.mDst := rfl
@[simp] theorem answer_mOff (v : BitVec 16) (s : State) : (answer v s).mOff = s.mOff := rfl
@[simp] theorem answer_mN (v : BitVec 16) (s : State) : (answer v s).mN = s.mN := rfl
@[simp] theorem answer_mK (v : BitVec 16) (s : State) : (answer v s).mK = s.mK := rfl
@[simp] theorem answer_mWord (v : BitVec 16) (s : State) : (answer v s).mWord = s.mWord := rfl
@[simp] theorem answer_bitTiming (v : BitVec 16) (s : State) : (answer v s).bitTiming = s.bitTiming := rfl
@[simp] theorem answer_txmb (v : BitVec 16) (s : State) : (answer v s).txmb = s.txmb := rfl
@[simp] theorem answer_rxmb (v : BitVec 16) (s : State) : (answer v s).rxmb = s.rxmb := rfl
@[simp] theorem answer_win (v : BitVec 16) (s : State) : (answer v s).win = s.win := rfl
@[simp] theorem answer_mem (v : BitVec 16) (s : State) : (answer v s).mem = s.mem := rfl
@[simp] theorem answer_caps (v : BitVec 16) (s : State) : (answer v s).caps = s.caps := rfl
@[simp] theorem answer_wireOut (v : BitVec 16) (s : State) : (answer v s).wireOut = s.wireOut := rfl
@[simp] theorem answer_wireIn (v : BitVec 16) (s : State) : (answer v s).wireIn = s.wireIn := rfl
@[simp] theorem answer_primResult (v : BitVec 16) (s : State) : (answer v s).primResult = v := rfl
@[simp] theorem answer_draws (v : BitVec 16) (s : State) : (answer v s).draws = s.draws := rfl
@[simp] theorem answer_schedule (v : BitVec 16) (s : State) : (answer v s).schedule = s.schedule := rfl

/-! ### taking a move off the schedule (log 3) -/

@[simp] theorem popMove_handle (s : State) : (popMove s).handle = s.handle := rfl
@[simp] theorem popMove_phase (s : State) : (popMove s).phase = s.phase := rfl
@[simp] theorem popMove_mPhase (s : State) : (popMove s).mPhase = s.mPhase := rfl
@[simp] theorem popMove_busy (s : State) : (popMove s).busy = s.busy := rfl
@[simp] theorem popMove_inited (s : State) : (popMove s).inited = s.inited := rfl
@[simp] theorem popMove_fault (s : State) : (popMove s).fault = s.fault := rfl
@[simp] theorem popMove_faultCode (s : State) : (popMove s).faultCode = s.faultCode := rfl
@[simp] theorem popMove_txSrc (s : State) : (popMove s).txSrc = s.txSrc := rfl
@[simp] theorem popMove_txCursor (s : State) : (popMove s).txCursor = s.txCursor := rfl
@[simp] theorem popMove_txRemaining (s : State) : (popMove s).txRemaining = s.txRemaining := rfl
@[simp] theorem popMove_txFirst (s : State) : (popMove s).txFirst = s.txFirst := rfl
@[simp] theorem popMove_txChunk (s : State) : (popMove s).txChunk = s.txChunk := rfl
@[simp] theorem popMove_rxDst (s : State) : (popMove s).rxDst = s.rxDst := rfl
@[simp] theorem popMove_rxOffset (s : State) : (popMove s).rxOffset = s.rxOffset := rfl
@[simp] theorem popMove_rxRemaining (s : State) : (popMove s).rxRemaining = s.rxRemaining := rfl
@[simp] theorem popMove_rxLen (s : State) : (popMove s).rxLen = s.rxLen := rfl
@[simp] theorem popMove_mDst (s : State) : (popMove s).mDst = s.mDst := rfl
@[simp] theorem popMove_mOff (s : State) : (popMove s).mOff = s.mOff := rfl
@[simp] theorem popMove_mN (s : State) : (popMove s).mN = s.mN := rfl
@[simp] theorem popMove_mK (s : State) : (popMove s).mK = s.mK := rfl
@[simp] theorem popMove_mWord (s : State) : (popMove s).mWord = s.mWord := rfl
@[simp] theorem popMove_bitTiming (s : State) : (popMove s).bitTiming = s.bitTiming := rfl
@[simp] theorem popMove_txmb (s : State) : (popMove s).txmb = s.txmb := rfl
@[simp] theorem popMove_rxmb (s : State) : (popMove s).rxmb = s.rxmb := rfl
@[simp] theorem popMove_win (s : State) : (popMove s).win = s.win := rfl
@[simp] theorem popMove_mem (s : State) : (popMove s).mem = s.mem := rfl
@[simp] theorem popMove_caps (s : State) : (popMove s).caps = s.caps := rfl
@[simp] theorem popMove_wireOut (s : State) : (popMove s).wireOut = s.wireOut := rfl
@[simp] theorem popMove_wireIn (s : State) : (popMove s).wireIn = s.wireIn := rfl
@[simp] theorem popMove_primResult (s : State) : (popMove s).primResult = s.primResult := rfl
@[simp] theorem popMove_draws (s : State) : (popMove s).draws = s.draws := rfl
@[simp] theorem popMove_schedule (s : State) : (popMove s).schedule = s.schedule.tail := rfl

/-! ### a delivered frame (R210) -/

@[simp] theorem storeFrame_handle (f : Frame) (s : State) : (storeFrame f s).handle = s.handle := rfl
@[simp] theorem storeFrame_phase (f : Frame) (s : State) : (storeFrame f s).phase = s.phase := rfl
@[simp] theorem storeFrame_mPhase (f : Frame) (s : State) : (storeFrame f s).mPhase = s.mPhase := rfl
@[simp] theorem storeFrame_busy (f : Frame) (s : State) : (storeFrame f s).busy = s.busy := rfl
@[simp] theorem storeFrame_inited (f : Frame) (s : State) : (storeFrame f s).inited = s.inited := rfl
@[simp] theorem storeFrame_fault (f : Frame) (s : State) : (storeFrame f s).fault = s.fault := rfl
@[simp] theorem storeFrame_faultCode (f : Frame) (s : State) : (storeFrame f s).faultCode = s.faultCode := rfl
@[simp] theorem storeFrame_txSrc (f : Frame) (s : State) : (storeFrame f s).txSrc = s.txSrc := rfl
@[simp] theorem storeFrame_txCursor (f : Frame) (s : State) : (storeFrame f s).txCursor = s.txCursor := rfl
@[simp] theorem storeFrame_txRemaining (f : Frame) (s : State) : (storeFrame f s).txRemaining = s.txRemaining := rfl
@[simp] theorem storeFrame_txFirst (f : Frame) (s : State) : (storeFrame f s).txFirst = s.txFirst := rfl
@[simp] theorem storeFrame_txChunk (f : Frame) (s : State) : (storeFrame f s).txChunk = s.txChunk := rfl
@[simp] theorem storeFrame_rxDst (f : Frame) (s : State) : (storeFrame f s).rxDst = s.rxDst := rfl
@[simp] theorem storeFrame_rxOffset (f : Frame) (s : State) : (storeFrame f s).rxOffset = s.rxOffset := rfl
@[simp] theorem storeFrame_rxRemaining (f : Frame) (s : State) : (storeFrame f s).rxRemaining = s.rxRemaining := rfl
@[simp] theorem storeFrame_rxLen (f : Frame) (s : State) : (storeFrame f s).rxLen = s.rxLen := rfl
@[simp] theorem storeFrame_mDst (f : Frame) (s : State) : (storeFrame f s).mDst = s.mDst := rfl
@[simp] theorem storeFrame_mOff (f : Frame) (s : State) : (storeFrame f s).mOff = s.mOff := rfl
@[simp] theorem storeFrame_mN (f : Frame) (s : State) : (storeFrame f s).mN = s.mN := rfl
@[simp] theorem storeFrame_mK (f : Frame) (s : State) : (storeFrame f s).mK = s.mK := rfl
@[simp] theorem storeFrame_mWord (f : Frame) (s : State) : (storeFrame f s).mWord = s.mWord := rfl
@[simp] theorem storeFrame_bitTiming (f : Frame) (s : State) : (storeFrame f s).bitTiming = s.bitTiming := rfl
@[simp] theorem storeFrame_txmb (f : Frame) (s : State) : (storeFrame f s).txmb = s.txmb := rfl
@[simp] theorem storeFrame_rxmb (f : Frame) (s : State) : (storeFrame f s).rxmb = { s.rxmb with data := deliveredData f s.handle s.draws, dlc := BitVec.ofNat 4 f.payload.length, arb := f.id, newdat := true } := rfl
@[simp] theorem storeFrame_win (f : Frame) (s : State) : (storeFrame f s).win = s.win := rfl
@[simp] theorem storeFrame_mem (f : Frame) (s : State) : (storeFrame f s).mem = s.mem := rfl
@[simp] theorem storeFrame_caps (f : Frame) (s : State) : (storeFrame f s).caps = s.caps := rfl
@[simp] theorem storeFrame_wireOut (f : Frame) (s : State) : (storeFrame f s).wireOut = s.wireOut := rfl
@[simp] theorem storeFrame_wireIn (f : Frame) (s : State) : (storeFrame f s).wireIn = s.wireIn := rfl
@[simp] theorem storeFrame_primResult (f : Frame) (s : State) : (storeFrame f s).primResult = s.primResult := rfl
@[simp] theorem storeFrame_draws (f : Frame) (s : State) : (storeFrame f s).draws = s.draws + Config.frameMax := rfl
@[simp] theorem storeFrame_schedule (f : Frame) (s : State) : (storeFrame f s).schedule = s.schedule := rfl

/-! ### external reset (70_reset_and_hazards.md R260) -/

@[simp] theorem externalReset_handle (s : State) : (externalReset s).handle = s.handle := rfl
@[simp] theorem externalReset_phase (s : State) : (externalReset s).phase = State.reset.phase := rfl
@[simp] theorem externalReset_mPhase (s : State) : (externalReset s).mPhase = State.reset.mPhase := rfl
@[simp] theorem externalReset_busy (s : State) : (externalReset s).busy = State.reset.busy := rfl
@[simp] theorem externalReset_inited (s : State) : (externalReset s).inited = State.reset.inited := rfl
@[simp] theorem externalReset_fault (s : State) : (externalReset s).fault = State.reset.fault := rfl
@[simp] theorem externalReset_faultCode (s : State) : (externalReset s).faultCode = State.reset.faultCode := rfl
@[simp] theorem externalReset_txSrc (s : State) : (externalReset s).txSrc = State.reset.txSrc := rfl
@[simp] theorem externalReset_txCursor (s : State) : (externalReset s).txCursor = State.reset.txCursor := rfl
@[simp] theorem externalReset_txRemaining (s : State) : (externalReset s).txRemaining = State.reset.txRemaining := rfl
@[simp] theorem externalReset_txFirst (s : State) : (externalReset s).txFirst = State.reset.txFirst := rfl
@[simp] theorem externalReset_txChunk (s : State) : (externalReset s).txChunk = State.reset.txChunk := rfl
@[simp] theorem externalReset_rxDst (s : State) : (externalReset s).rxDst = State.reset.rxDst := rfl
@[simp] theorem externalReset_rxOffset (s : State) : (externalReset s).rxOffset = State.reset.rxOffset := rfl
@[simp] theorem externalReset_rxRemaining (s : State) : (externalReset s).rxRemaining = State.reset.rxRemaining := rfl
@[simp] theorem externalReset_rxLen (s : State) : (externalReset s).rxLen = State.reset.rxLen := rfl
@[simp] theorem externalReset_mDst (s : State) : (externalReset s).mDst = State.reset.mDst := rfl
@[simp] theorem externalReset_mOff (s : State) : (externalReset s).mOff = State.reset.mOff := rfl
@[simp] theorem externalReset_mN (s : State) : (externalReset s).mN = State.reset.mN := rfl
@[simp] theorem externalReset_mK (s : State) : (externalReset s).mK = State.reset.mK := rfl
@[simp] theorem externalReset_mWord (s : State) : (externalReset s).mWord = State.reset.mWord := rfl
@[simp] theorem externalReset_bitTiming (s : State) : (externalReset s).bitTiming = State.reset.bitTiming := rfl
@[simp] theorem externalReset_txmb (s : State) : (externalReset s).txmb = State.reset.txmb := rfl
@[simp] theorem externalReset_rxmb (s : State) : (externalReset s).rxmb = State.reset.rxmb := rfl
@[simp] theorem externalReset_win (s : State) : (externalReset s).win = State.reset.win := rfl
@[simp] theorem externalReset_mem (s : State) : (externalReset s).mem = s.mem := rfl
@[simp] theorem externalReset_caps (s : State) : (externalReset s).caps = s.caps := rfl
@[simp] theorem externalReset_wireOut (s : State) : (externalReset s).wireOut = State.reset.wireOut := rfl
@[simp] theorem externalReset_wireIn (s : State) : (externalReset s).wireIn = State.reset.wireIn := rfl
@[simp] theorem externalReset_primResult (s : State) : (externalReset s).primResult = State.reset.primResult := rfl
@[simp] theorem externalReset_draws (s : State) : (externalReset s).draws = s.draws := rfl
@[simp] theorem externalReset_schedule (s : State) : (externalReset s).schedule = s.schedule := rfl

end Sys2Proof.Machine
end

