-- ==== Sys2Proof/Laws/Ops.lean ====
section
/-! SUPPORT. What each shared operation can do, said once: the sparse tables, the buffers, the fault mechanism, the command port,
the marshalling run and the mailbox primitives. -/

namespace Sys2Proof.Machine

/-! ### Sparse tables -/

section Cells
variable {β : Type} (d : β)

/-- Below every key of a canonical table, a read gives the default. -/
theorem Cells.read_below (m : List (Nat × β)) {a : Nat} (h : m.all (fun c => decide (a < c.1)) = true) :
    Cells.read d m a = d := by
  induction m with
  | nil => rfl
  | cons c t ih =>
    obtain ⟨k, w⟩ := c
    simp only [List.all_cons, Bool.and_eq_true, decide_eq_true_eq] at h
    have hk : ¬ k = a := by omega
    simp [Cells.read, hk, ih h.2]

variable [DecidableEq β]

/-- A write leaves every other key alone. -/
theorem Cells.read_write_other (m : List (Nat × β)) {a b : Nat} (v : β) (h : b ≠ a) :
    Cells.read d (Cells.write d m a v) b = Cells.read d m b := by
  induction m with
  | nil => simp only [Cells.write]; split <;> simp [Cells.read, Ne.symm h]
  | cons c t ih =>
    obtain ⟨k, w⟩ := c
    simp only [Cells.write]
    split
    · split <;> simp [Cells.read, Ne.symm h]
    · split
      · next hk => subst hk; split <;> simp [Cells.read, Ne.symm h]
      · simp [Cells.read, ih]

/-- A read after a write to the same key gives what was written. -/
theorem Cells.read_write_same (m : List (Nat × β)) (a : Nat) (v : β) (h : Cells.wf d m = true) :
    Cells.read d (Cells.write d m a v) a = v := by
  induction m with
  | nil => simp only [Cells.write]; split <;> simp_all [Cells.read]
  | cons c t ih =>
    obtain ⟨k, w⟩ := c
    simp only [Cells.wf, Bool.and_eq_true, decide_eq_true_eq] at h
    obtain ⟨⟨_, hall⟩, ht⟩ := h
    simp only [Cells.write]
    split
    · next hlt =>
      have hk : ¬ k = a := by omega
      split
      · next hv =>
        have hb : t.all (fun c => decide (a < c.1)) = true := by
          simp only [List.all_eq_true, decide_eq_true_eq] at hall ⊢
          intro x hx
          have := hall x hx
          omega
        simp [Cells.read, hk, Cells.read_below d t hb, hv]
      · simp [Cells.read]
    · split
      · next hk =>
        subst hk
        split
        · next hv => simp [Cells.read_below d t hall, hv]
        · simp [Cells.read]
      · next hk =>
        have hk' : ¬ k = a := fun e => hk e.symm
        simp [Cells.read, hk', ih ht]

/-- A write adds no key but its own. -/
theorem Cells.all_write (m : List (Nat × β)) {lo a : Nat} (v : β)
    (h : m.all (fun c => decide (lo < c.1)) = true) (hlo : lo < a) :
    (Cells.write d m a v).all (fun c => decide (lo < c.1)) = true := by
  induction m with
  | nil => simp only [Cells.write]; split <;> simp [hlo]
  | cons c t ih =>
    obtain ⟨k, w⟩ := c
    rw [List.all_cons, Bool.and_eq_true, decide_eq_true_eq] at h
    obtain ⟨hk, ht⟩ := h
    have hc : ∀ (x : β) (l : List (Nat × β)) (b : Nat), lo < b → l.all (fun c => decide (lo < c.1)) = true →
        ((b, x) :: l).all (fun c => decide (lo < c.1)) = true := by
      intro x l b hb hl
      rw [List.all_cons, hl]
      simpa using hb
    simp only [Cells.write]
    split
    · split
      · exact hc _ _ _ hk ht
      · exact hc _ _ _ hlo (hc _ _ _ hk ht)
    · split
      · split
        · exact ht
        · exact hc _ _ _ hlo ht
      · exact hc _ _ _ hk (ih ht)

/-- A write keeps the canonical form. -/
theorem Cells.wf_write (m : List (Nat × β)) (a : Nat) (v : β) (h : Cells.wf d m = true) :
    Cells.wf d (Cells.write d m a v) = true := by
  induction m with
  | nil => simp only [Cells.write]; split <;> simp_all [Cells.wf]
  | cons c t ih =>
    obtain ⟨k, w⟩ := c
    have h0 := h
    simp only [Cells.wf, Bool.and_eq_true, decide_eq_true_eq] at h
    obtain ⟨⟨hw, hall⟩, ht⟩ := h
    simp only [Cells.write]
    split
    · next hlt =>
      split
      · exact h0
      · next hv =>
        have hb : t.all (fun c => decide (a < c.1)) = true := by
          simp only [List.all_eq_true, decide_eq_true_eq] at hall ⊢
          intro x hx
          have := hall x hx
          omega
        rw [Cells.wf, h0]
        simp [hv, hlt, hb]
    · next hge =>
      split
      · next hk =>
        subst hk
        split
        · exact ht
        · next hv => simp [Cells.wf, hv, hall, ht]
      · next hk =>
        have hlt : k < a := by omega
        simp [Cells.wf, hw, Cells.all_write d t v hall hlt, ih ht]

end Cells

/-! ### Memory -/

theorem Memory.read_write_other (m : Memory) {a b : Nat} (v : Byte) (h : b ≠ a) :
    (m.write a v).read b = m.read b :=
  Cells.read_write_other _ m v h

theorem Memory.read_write_same (m : Memory) (a : Nat) (v : Byte) (h : m.wf = true) : (m.write a v).read a = v :=
  Cells.read_write_same _ m a v h

theorem Memory.wf_write (m : Memory) (a : Nat) (v : Byte) (h : m.wf = true) : (m.write a v).wf = true :=
  Cells.wf_write _ m a v h

theorem Memory.wf_writeAll (bs : List Byte) : ∀ (m : Memory) (a : Nat), m.wf = true → (m.writeAll a bs).wf = true := by
  induction bs with
  | nil => intro m a h; exact h
  | cons b bs ih => intro m a h; exact ih _ _ (Memory.wf_write m a b h)

/-- Memory after reset has the canonical form. -/
theorem Memory.wf_reset : State.reset.mem.wf = true := rfl

/-- A store to a caller's buffer keeps the canonical form. -/
theorem Memory.wf_bufWrite {h : Handle} {i : Size} {v : Byte} {s t : State} (e : bufWrite h i v s = .ok t)
    (hm : s.mem.wf = true) : t.mem.wf = true := by
  unfold bufWrite at e
  split at e
  · cases e; exact Memory.wf_write _ _ _ hm
  · cases e

/-- A block write leaves the cells outside the block alone. -/
theorem Memory.read_writeAll_other (bs : List Byte) : ∀ (m : Memory) (a x : Nat), (x < a ∨ a + bs.length ≤ x) →
    (m.writeAll a bs).read x = m.read x := by
  induction bs with
  | nil => intro m a x _; rfl
  | cons b bs ih =>
    intro m a x h
    simp only [List.length_cons] at h
    have hx : x ≠ a := by omega
    rw [Memory.writeAll, ih _ _ _ (by omega), Memory.read_write_other m b hx]

/-- A block write puts each byte in its cell. -/
theorem Memory.read_writeAll_same (bs : List Byte) : ∀ (m : Memory) (a i : Nat) (_ : m.wf = true) (h : i < bs.length),
    (m.writeAll a bs).read (a + i) = bs[i] := by
  induction bs with
  | nil => intro m a i _ h; simp at h
  | cons b bs ih =>
    intro m a i hm h
    cases i with
    | zero =>
      rw [Memory.writeAll, Memory.read_writeAll_other bs _ _ _ (by omega), Nat.add_zero,
        Memory.read_write_same m a b hm]
      rfl
    | succ j =>
      have := ih (m.write a b) (a + 1) j (Memory.wf_write m a b hm) (by simpa using h)
      rw [Memory.writeAll, show a + (j + 1) = a + 1 + j by omega, this]
      rfl

/-- Two cells of buffers are the same cell only for the same handle and index. -/
theorem cellOf_inj {h h' : Handle} {i i' : Size} (e : cellOf h i = cellOf h' i') : h = h' ∧ i = i' := by
  simp only [cellOf, Config.sizeRange] at e
  have hi := i.isLt
  have hi' := i'.isLt
  have h1 : @Eq Nat h h' := by omega
  subst h1
  exact ⟨rfl, BitVec.eq_of_toNat_eq (by omega)⟩

/-! ### The caller's buffers -/

/-- `BufRead` answers exactly inside the buffer. -/
theorem bufRead_ok {h : Handle} {i : Size} {s : State} {v : Byte} :
    bufRead h i s = .ok v ↔ i.toNat < s.cap h ∧ v = s.byteAt h i := by
  unfold bufRead
  split <;> simp_all [eq_comm]

/-- `BufWrite` answers exactly inside the buffer, and then changes one cell. -/
theorem bufWrite_ok {h : Handle} {i : Size} {v : Byte} {s t : State} :
    bufWrite h i v s = .ok t ↔ i.toNat < s.cap h ∧ t = { s with mem := s.mem.write (cellOf h i) v } := by
  unfold bufWrite
  split <;> simp_all [eq_comm]

/-- A buffer access fails only as `BufferRange`. -/
theorem bufWrite_error {h : Handle} {i : Size} {v : Byte} {s : State} {c : FaultCode} :
    bufWrite h i v s = .error c ↔ s.cap h ≤ i.toNat ∧ c = .bufferRange := by
  unfold bufWrite
  split
  · next h1 => simp; omega
  · next h1 => simp [eq_comm]; omega

/-! ### Faults and the command port -/

/-- A step that may raise a fault answers its own writes or the fault. -/
theorem attempt_cases {r : Except FaultCode State} {s t : State} (h : attempt r s = .next t) :
    r = .ok t ∨ ∃ c, r = .error c ∧ t = raise c s := by
  cases r with
  | ok u => simp only [attempt, Host.Outcome.next.injEq] at h; exact .inl (by rw [h])
  | error c => simp only [attempt, Host.Outcome.next.injEq] at h; exact .inr ⟨c, rfl, h.symm⟩

/-- It always answers a next state. -/
theorem attempt_next (r : Except FaultCode State) (s : State) : ∃ t, attempt r s = .next t := by
  cases r <;> exact ⟨_, rfl⟩

@[simp] theorem attempt_ok (t s : State) : attempt (.ok t) s = .next t := rfl
@[simp] theorem attempt_error (c : FaultCode) (s : State) : attempt (.error c) s = .next (raise c s) := rfl

/-- What the command port can do. -/
theorem accept_cases {r : Except FaultCode State} {s t : State} (h : accept r s = .next t) :
    (s.phase = Phase.faulted ∧ t = s) ∨
    (s.phase ≠ Phase.faulted ∧ s.busy = true ∧ t = raise .cmdWhileBusy s) ∨
    (s.phase ≠ Phase.faulted ∧ s.busy = false ∧ (r = .ok t ∨ ∃ c, r = .error c ∧ t = raise c s)) := by
  unfold accept at h
  split at h
  · next hp => simp only [Host.Outcome.next.injEq] at h; exact .inl ⟨hp, h.symm⟩
  · next hp =>
    split at h
    · next hb => simp only [Host.Outcome.next.injEq] at h; exact .inr (.inl ⟨hp, hb, h.symm⟩)
    · next hb => exact .inr (.inr ⟨hp, by simpa using hb, attempt_cases h⟩)

/-- The command port always answers a next state. -/
theorem accept_next (r : Except FaultCode State) (s : State) : ∃ t, accept r s = .next t := by
  unfold accept
  split
  · exact ⟨_, rfl⟩
  · split
    · exact ⟨_, rfl⟩
    · exact attempt_next r s

/-- The command port takes a command when it is free. -/
theorem accept_free {r : Except FaultCode State} {s : State} (hp : s.phase ≠ Phase.faulted) (hb : s.busy = false) :
    accept r s = attempt r s := by
  simp [accept, hp, hb]

/-! ### The marshalling run -/

/-- Starting a run of no byte ends it at once. -/
theorem marshalStart_zero (dst : Handle) (off : Size) (s : State) :
    marshalStart dst off 0 s = endRun { s with mDst := dst, mOff := off, mN := 0, mK := 0 } := by
  simp [marshalStart]

/-- Starting a run of some bytes makes the unit fetch. -/
theorem marshalStart_pos {n : BitVec 4} (dst : Handle) (off : Size) (s : State) (h : n ≠ 0) :
    marshalStart dst off n s = { s with mDst := dst, mOff := off, mN := n, mK := 0, mPhase := MPhase.fetch } := by
  simp only [marshalStart, if_neg h]

/-- The stores of `M_EMIT` change memory only: the low byte's cell, and the high byte's if it is wanted. -/
theorem emitBytes_ok {s t : State} (h : emitBytes s = .ok t) :
    (lowIndex s).toNat < s.cap s.mDst ∧
    (wantsHigh s = true → (highIndex s).toNat < s.cap s.mDst) ∧
    t = { s with mem := (if wantsHigh s
      then (s.mem.write (cellOf s.mDst (lowIndex s)) (loByte s.mWord)).write
        (cellOf s.mDst (highIndex s)) (hiByte s.mWord)
      else s.mem.write (cellOf s.mDst (lowIndex s)) (loByte s.mWord)) } := by
  unfold emitBytes at h
  split at h
  · simp at h
  · next u hu =>
    obtain ⟨hlo, rfl⟩ := bufWrite_ok.mp hu
    split at h
    · next hw =>
      obtain ⟨hhi, rfl⟩ := bufWrite_ok.mp h
      exact ⟨hlo, fun _ => hhi, by simp [hw]⟩
    · next hw =>
      simp only [Except.ok.injEq] at h
      exact ⟨hlo, fun hw' => absurd hw' hw, by simp [hw, ← h]⟩

/-- They fail only as `BufferRange`. -/
theorem emitBytes_error {s : State} {c : FaultCode} (h : emitBytes s = .error c) : c = .bufferRange := by
  unfold emitBytes at h
  split at h
  · next c' hc => simp only [Except.error.injEq] at h; rw [← h]; exact (bufWrite_error.mp hc).2
  · split at h
    · exact (bufWrite_error.mp h).2
    · simp at h

/-! ### The mailbox primitives -/

/-- A descriptor is taken exactly when no frame is pending and its indices are inside its buffer. -/
theorem mbTxSubmit_ok {d : TxDesc} {s t : State} :
    mbTxSubmit d s = .ok t ↔ s.txmb.pending = false ∧ descInRange d s = true ∧
      t = { s with txmb := { s.txmb with data := descData d s, dlc := d.count, pending := true } } := by
  unfold mbTxSubmit
  split
  · next h => simp [h]
  · next h =>
    split
    · next hr => simp only [Except.ok.injEq, hr, Bool.not_eq_true] at h ⊢; rw [h]; simp only [true_and, eq_comm]
    · next hr => simp [hr]

/-- What submitting a descriptor can do. -/
theorem submitThen_cases {d : TxDesc} {after : State → State} {s t : State} (h : submitThen d after s = .next t) :
    (s.txmb.pending = false ∧ d.count.toNat ≤ Config.frameMax ∧ descInRange d s = true ∧
      t = after { s with txmb := { s.txmb with data := descData d s, dlc := d.count, pending := true } }) ∨
    (s.txmb.pending = true ∧ t = raise .txSubmitWhilePending s) ∨
    (s.txmb.pending = false ∧ descInRange d s = false ∧ t = raise .bufferRange s) := by
  unfold submitThen at h
  split at h
  · simp at h
  · next hc =>
    simp only [Bool.and_eq_true, Bool.not_eq_true', decide_eq_true_eq, not_and, Nat.not_lt] at hc
    unfold mbTxSubmit at h
    split at h
    · next hp => exact .inr (.inl ⟨hp, (Host.Outcome.next.inj h).symm⟩)
    · next hp =>
      have hp' : s.txmb.pending = false := by simpa using hp
      split at h
      · next hr => exact .inl ⟨hp', hc hp', hr, (Host.Outcome.next.inj h).symm⟩
      · next hr => exact .inr (.inr ⟨hp', by simpa using hr, (Host.Outcome.next.inj h).symm⟩)

/-- Submitting stops only on a count above 8. -/
theorem submitThen_next {d : TxDesc} (after : State → State) (s : State) (h : d.count.toNat ≤ Config.frameMax) :
    ∃ t, submitThen d after s = .next t := by
  unfold submitThen
  rw [if_neg]
  · exact attempt_next _ _
  · simp only [Bool.and_eq_true, decide_eq_true_eq, not_and, Nat.not_lt]
    intro _; exact h

/-- A submit takes place when the mailbox is ready and the indices are inside the buffer. -/
theorem submitThen_ok {d : TxDesc} (after : State → State) {s : State} (hp : s.txmb.pending = false)
    (hc : d.count.toNat ≤ Config.frameMax) (hr : descInRange d s = true) :
    submitThen d after s =
      .next (after { s with txmb := { s.txmb with data := descData d s, dlc := d.count, pending := true } }) := by
  have h9 : ¬ Config.frameMax < d.count.toNat := by omega
  simp [submitThen, hp, h9, mbTxSubmit, hr, Except.map]

end Sys2Proof.Machine
end

