-- ==== Sys2Proof/Laws/PerInstr.lean ====
section
/-! SUPPORT. The family CodeField of statements about an operation as syntax: its code fits the code bits of its format, and those
bits of its encoding are the code, whatever the operands. One lemma per constructor. -/

namespace Sys2Proof.Laws.CodeField

/-- The code field of an encoded operation. -/
def Statement (i : Instr) : Prop :=
  i.code < 2 ^ i.format.codeBits ∧ (encode i).2 % 2 ^ i.format.codeBits = i.code

theorem init : Statement .init := ⟨by decide, by decide⟩

theorem receive (size : Size) (dst : Handle) : Statement (.receive size dst) := by
  simp only [Statement, encode, Instr.code, Instr.format, Format.codeBits, Instr.operandBits]
  omega

theorem transmit (size : Size) (src : Handle) : Statement (.transmit size src) := by
  simp only [Statement, encode, Instr.code, Instr.format, Format.codeBits, Instr.operandBits]
  omega

theorem marshal (n : Size) (dst : Handle) : Statement (.marshal n dst) := by
  simp only [Statement, encode, Instr.code, Instr.format, Format.codeBits, Instr.operandBits]
  omega

theorem rxPoll : Statement .rxPoll := ⟨by decide, by decide⟩

theorem rxReq : Statement .rxReq := ⟨by decide, by decide⟩

theorem rxLen : Statement .rxLen := ⟨by decide, by decide⟩

theorem rxCopy : Statement .rxCopy := ⟨by decide, by decide⟩

theorem rxRearm : Statement .rxRearm := ⟨by decide, by decide⟩

theorem rxAcct : Statement .rxAcct := ⟨by decide, by decide⟩

theorem txWait : Statement .txWait := ⟨by decide, by decide⟩

theorem txDelay : Statement .txDelay := ⟨by decide, by decide⟩

theorem txChunk : Statement .txChunk := ⟨by decide, by decide⟩

theorem txSubmit : Statement .txSubmit := ⟨by decide, by decide⟩

theorem txAdvance : Statement .txAdvance := ⟨by decide, by decide⟩

theorem mFetch : Statement .mFetch := ⟨by decide, by decide⟩

theorem mEmit : Statement .mEmit := ⟨by decide, by decide⟩

theorem mbRxNewdat : Statement .mbRxNewdat := ⟨by decide, by decide⟩

theorem mbRxRequest : Statement .mbRxRequest := ⟨by decide, by decide⟩

theorem mbRxLen : Statement .mbRxLen := ⟨by decide, by decide⟩

theorem mbRxData (k : BitVec 2) : Statement (.mbRxData k) := by
  simp only [Statement, encode, Instr.code, Instr.format, Format.codeBits, Instr.operandBits]
  omega

theorem mbRxRearm : Statement .mbRxRearm := ⟨by decide, by decide⟩

theorem mbTxReady : Statement .mbTxReady := ⟨by decide, by decide⟩

theorem mbTxSubmit (d : TxDesc) : Statement (.mbTxSubmit d) := by
  simp only [Statement, encode, Instr.code, Instr.format, Format.codeBits, Instr.operandBits]
  omega

theorem delay : Statement .delay := ⟨by decide, by decide⟩

theorem mbInit : Statement .mbInit := ⟨by decide, by decide⟩

end Sys2Proof.Laws.CodeField
end

