-- ==== Sys2Proof/Laws/Step.lean ====
section
/-! SUPPORT. What the moves of the agents can do, and what a step can do, said once. -/

namespace Sys2Proof.Machine

/-- A delivery waits, discards the oldest frame, or stores it. -/
theorem rxDeliver_cases (s : State) :
    (rxDeliver s = s ∧ (s.wireIn = [] ∨ s.inited = false ∨ s.rxmb.newdat = true)) ∨
    ∃ f rest, s.wireIn = f :: rest ∧ s.inited = true ∧ s.rxmb.newdat = false ∧
      ((s.rxmb.matches f.id = true ∧ rxDeliver s = storeFrame f { s with wireIn := rest }) ∨
       (s.rxmb.matches f.id = false ∧ rxDeliver s = { s with wireIn := rest })) := by
  unfold rxDeliver
  cases hw : s.wireIn with
  | nil => exact .inl ⟨rfl, .inl rfl⟩
  | cons f rest =>
    cases hi : s.inited <;> cases hn : s.rxmb.newdat <;> cases hm : s.rxmb.matches f.id <;> simp [hm]

/-- A completion does nothing, or sends the pending frame. -/
theorem txComplete_cases (s : State) :
    (s.txmb.pending = false ∧ txComplete s = s) ∨
    (s.txmb.pending = true ∧ txComplete s =
      { s with wireOut := s.wireOut ++ [s.txmb.frame], txmb := { s.txmb with pending := false } }) := by
  unfold txComplete
  cases hp : s.txmb.pending <;> simp

/-- The peer's sending does nothing, or appends a frame of at most eight bytes. -/
theorem peerSend_cases (f : Frame) (s : State) :
    (f.wf = false ∧ peerSend f s = s) ∨
    (f.wf = true ∧ peerSend f s = { s with wireIn := s.wireIn ++ [f] }) := by
  unfold peerSend
  cases hf : f.wf <;> simp

/-- Lending does nothing while a command runs; it changes memory and capacities only. -/
theorem lend_cases (h : Handle) (bytes : List Byte) (s : State) :
    lend h bytes s = s ∨
    (s.busy = false ∧ bytes.length ≤ Config.sizeRange ∧
      lend h bytes s = { s with
        caps := Cells.write 0 s.caps h bytes.length
        mem := s.mem.writeAll (cellOf h 0) bytes }) := by
  unfold lend
  split
  · exact .inl rfl
  · next hc =>
    simp only [Bool.or_eq_true, decide_eq_true_eq, not_or, Bool.not_eq_true, Nat.not_lt] at hc
    exact .inr ⟨hc.1, hc.2, rfl⟩

/-- What the engine's next operation is. -/
theorem fetchEngine_ok {s : State} {i : Instr} (h : fetchEngine s = .ok i) :
    s.phase ≠ Phase.faulted ∧
    ((s.mPhase = MPhase.idle ∧ decodePhase s.phase = .ok i) ∨
     (s.mPhase ≠ MPhase.idle ∧ decodeMPhase s.mPhase = .ok i)) := by
  unfold fetchEngine at h
  split at h
  · cases h
  · next hp =>
    split at h
    · next hm => exact ⟨hp, .inl ⟨hm, h⟩⟩
    · next hm => exact ⟨hp, .inr ⟨hm, h⟩⟩

/-- A step whose code names no operation waits, or raises `CmdIllegal` at the port. -/
theorem rejected_cases {r : Reject} {s t : State} (h : rejected r s = .next t) :
    t = s ∨ (∃ c, r = .cmdIllegal c ∧ accept (.error .cmdIllegal) s = .next t) := by
  cases r with
  | idle => exact .inl (Host.Outcome.next.inj h).symm
  | mIdle => exact .inl (Host.Outcome.next.inj h).symm
  | faulted => exact .inl (Host.Outcome.next.inj h).symm
  | cmdIllegal c => exact .inr ⟨c, rfl, h⟩
  | reservedPhase c => cases h
  | reservedMPhase c => cases h
  | reservedPrim c => cases h
  | descCount c => cases h

/-- Everything a step can do: one arm per agent. -/
theorem step_cases {s t : State} (h : step s = .next t) :
    (nextMove s = .engine ∧ runFetched (fetchEngine s) (popMove s) = .next t) ∨
    (∃ c, nextMove s = .command c ∧ runFetched (fetchCommand c) (popMove s) = .next t) ∨
    (∃ sel k d, nextMove s = .request sel k d ∧
      ((s.busy = true ∧ t = popMove s) ∨ (s.busy = false ∧ runFetched (decodePrim sel k d) (popMove s) = .next t))) ∨
    (nextMove s = .rxDeliver ∧ t = rxDeliver (popMove s)) ∨
    (nextMove s = .txComplete ∧ t = txComplete (popMove s)) ∨
    (∃ f, nextMove s = .peerSend f ∧ t = peerSend f (popMove s)) ∨
    (∃ b bytes, nextMove s = .lend b bytes ∧ t = lend b bytes (popMove s)) ∨
    (nextMove s = .reset ∧ t = externalReset (popMove s)) := by
  unfold step at h
  cases hm : nextMove s <;> rw [hm] at h <;> dsimp only [runMove] at h
  · exact .inl ⟨rfl, h⟩
  · exact .inr (.inl ⟨_, rfl, h⟩)
  · refine .inr (.inr (.inl ⟨_, _, _, rfl, ?_⟩))
    split at h
    · next hb => exact .inl ⟨hb, (Host.Outcome.next.inj h).symm⟩
    · next hb => exact .inr ⟨Bool.eq_false_iff.mpr hb, h⟩
  · exact .inr (.inr (.inr (.inl ⟨rfl, (Host.Outcome.next.inj h).symm⟩)))
  · exact .inr (.inr (.inr (.inr (.inl ⟨rfl, (Host.Outcome.next.inj h).symm⟩))))
  · exact .inr (.inr (.inr (.inr (.inr (.inl ⟨_, rfl, (Host.Outcome.next.inj h).symm⟩)))))
  · exact .inr (.inr (.inr (.inr (.inr (.inr (.inl ⟨_, _, rfl, (Host.Outcome.next.inj h).symm⟩))))))
  · exact .inr (.inr (.inr (.inr (.inr (.inr (.inr ⟨rfl, (Host.Outcome.next.inj h).symm⟩))))))

end Sys2Proof.Machine
end

