-- ==== Sys2Proof/Laws/Transfers.lean ====
section
/-! SUPPORT. The small lemmas of a transfer: the first bytes of a buffer, the slices of a byte string, a descriptor's bytes and the
bytes not drained yet. -/

namespace Sys2Proof.Machine

/-! ### The first bytes of a buffer -/

@[simp] theorem State.firstBytes_length (s : State) (h : Handle) (n : Nat) : (s.firstBytes h n).length = n := by
  simp [State.firstBytes]

theorem State.firstBytes_add (s : State) (h : Handle) (c n : Nat) :
    s.firstBytes h (c + n) = s.firstBytes h c ++ (List.range n).map fun i => s.byteAt h (BitVec.ofNat 32 (c + i)) := by
  simp [State.firstBytes, List.range_add, Function.comp_def]

/-- They depend on memory alone. -/
theorem State.firstBytes_congr {s t : State} (hm : t.mem = s.mem) (h : Handle) (n : Nat) :
    t.firstBytes h n = s.firstBytes h n := by
  simp [State.firstBytes, State.byteAt, hm]

/-- Writing the next byte extends them. -/
theorem State.firstBytes_write (s : State) (h : Handle) (j : Nat) (v : Byte) (hj : j < 2 ^ 32) (hw : s.mem.wf = true) :
    State.firstBytes { s with mem := s.mem.write (cellOf h (BitVec.ofNat 32 j)) v } h (j + 1) =
      s.firstBytes h j ++ [v] := by
  simp only [State.firstBytes, List.range_succ, List.map_append, List.map_cons, List.map_nil, State.byteAt]
  congr 1
  · apply List.map_congr_left
    intro i hi
    simp only [List.mem_range] at hi
    rw [Memory.read_write_other]
    intro e
    have e2 := congrArg BitVec.toNat (cellOf_inj e).2
    simp only [BitVec.toNat_ofNat] at e2
    omega
  · rw [Memory.read_write_same _ _ _ hw]

/-! ### Slices and descriptors -/

/-- One more chunk is one more frame. -/
theorem segments_append (l m : List Byte) (h8 : 8 ∣ l.length) (h1 : 1 ≤ m.length) (h2 : m.length ≤ 8) :
    segments (l ++ m) = segments l ++ [{ id := Config.txId, payload := m }] := by
  obtain ⟨q, hq⟩ := h8
  have e1 : (l.length + 7) / 8 = q := by omega
  have e2 : ((l ++ m).length + 7) / 8 = q + 1 := by rw [List.length_append]; omega
  simp only [segments, e1, e2, List.range_succ, List.map_append, List.map_cons, List.map_nil]
  congr 1
  · apply List.map_congr_left
    intro j hj
    have hj' : j < q := by simpa using hj
    rw [List.drop_append_of_le_length (by omega), List.take_append_of_le_length (by simp; omega)]
  · rw [List.drop_append, List.drop_of_length_le (by omega)]
    simp [hq, List.take_of_length_le h2]

/-- The payload a descriptor puts in the mailbox is the buffer's bytes. -/
theorem descData_take (s : State) (d : TxDesc) (h : d.count.toNat ≤ 8) :
    (descData d s).toList.take d.count.toNat =
      (List.range d.count.toNat).map fun i => s.byteAt d.buf (d.index + BitVec.ofNat 32 i) := by
  rw [descData, Bytes8.toList_ofFn, ← List.map_take, List.take_range, Nat.min_eq_left h]
  apply List.map_congr_left
  intro i hi
  simp only [List.mem_range] at hi
  simp [hi]

/-! ### The bytes not drained yet -/

theorem State.undrained_congr {s t : State} (hr : t.rxmb = s.rxmb) (hw : t.wireIn = s.wireIn) :
    t.undrained = s.undrained := by
  simp [State.undrained, State.mailboxBytes, State.wireBytes, hr, hw]

theorem State.mailboxBytes_length {s : State} (h : s.rxmb.newdat = true) (h8 : s.rxmb.dlc.toNat ≤ 8) :
    s.mailboxBytes.length = s.rxmb.dlc.toNat := by
  simp [State.mailboxBytes, h]; omega

/-- While a frame is in the mailbox, byte `i` of what is undrained is the mailbox's byte `i`. -/
theorem State.undrained_get {s : State} (h : s.rxmb.newdat = true) (h8 : s.rxmb.dlc.toNat ≤ 8) {i : Nat}
    (hi : i < s.rxmb.dlc.toNat) : s.undrained.drop i = s.rxmb.data.get i :: s.undrained.drop (i + 1) := by
  have hl := State.mailboxBytes_length h h8
  have hlt : i < s.undrained.length := by simp [State.undrained, hl]; omega
  rw [List.drop_eq_getElem_cons hlt]
  congr 1
  simp only [State.undrained]
  rw [List.getElem_append_left (by omega)]
  simp [State.mailboxBytes, h, Bytes8.get]
  rw [List.getElem?_eq_getElem (by simp; omega)]
  rfl

/-- Past the mailbox's frame there are the frames on the wire. -/
theorem State.undrained_drop {s : State} (h : s.rxmb.newdat = true) (h8 : s.rxmb.dlc.toNat ≤ 8) :
    s.undrained.drop s.rxmb.dlc.toNat = s.wireBytes := by
  have hl := State.mailboxBytes_length h h8
  rw [State.undrained, List.drop_append_of_le_length (by rw [hl]), List.drop_of_length_le (by rw [hl])]
  rfl

/-- The bytes a delivery stores in front are the frame's payload. -/
theorem deliveredData_take (f : Frame) (handle n : Nat) (h : f.payload.length ≤ 8) :
    (deliveredData f handle n).toList.take f.payload.length = f.payload := by
  rw [deliveredData, Bytes8.toList_ofFn, ← List.map_take, List.take_range, Nat.min_eq_left h]
  apply List.ext_getElem
  · simp
  · intro i h1 h2
    simp [List.getElem?_eq_getElem h2]

end Sys2Proof.Machine
end

