-- ==== Sys2Proof/Tests/Slice0.lean ====
section
/-! SUPPORT. Tests: ill-formed terms refused, words written out from 30_encoding.md, the vectors of 95_test_vectors.md one step at a
time, and for every obligation with hypotheses a witness that meets them. -/

namespace Sys2Proof.Tests

open Sys2Proof Sys2Proof.Machine

/-! ### States the tests start from -/

/-- The state a result holds, for tests only. -/
def got : Result → State
  | .next t => t
  | .fault _ => State.reset
  | .refused _ => State.reset

/-- An initialised block with a 16-byte buffer 1 that holds 01, 02, .. , 10. -/
def ready : State :=
  lend 1 [1, 2, 3, 4, 5, 6, 7, 8, 9, 10, 11, 12, 13, 14, 15, 16] { State.reset with
    inited := true
    txmb := { State.reset.txmb with id := 0x2#11 }
    rxmb := { State.reset.rxmb with id := 0x5#11, mask := 0x7FF#11, filter := true } }

/-- Window B of 95_test_vectors.md section 2.1. -/
def windowB : Window := { d := ⟨0xBEEF, 0xCAFE, 0x1234, 0xFF00⟩, len := 0, arb := 0 }

/-- A RECEIVE of `n` bytes to buffer 1 in the given phase. -/
def receiving (p : BitVec 4) (n : Size) : State :=
  { ready with busy := true, phase := p, rxDst := 1, rxOffset := 0, rxRemaining := n }

/-- A TRANSMIT of the first `n` bytes of buffer 1 in the given phase, past the first-frame bypass. -/
def sending (p : BitVec 4) (n : Size) : State :=
  { ready with busy := true, phase := p, txSrc := 1, txCursor := 0, txRemaining := n }

/-- The receive mailbox with the frame 01 .. 08 in it. -/
def fullMailbox : RxMailbox :=
  { ready.rxmb with newdat := true, data := ⟨1, 2, 3, 4, 5, 6, 7, 8⟩, dlc := 8, arb := 0x5#11 }

/-- The transmit mailbox with the frame 01 .. 08 pending. -/
def pendingMailbox : TxMailbox := { ready.txmb with data := ⟨1, 2, 3, 4, 5, 6, 7, 8⟩, dlc := 8, pending := true }

/-- The same state with one move scheduled. -/
def next (m : Move) (s : State) : State := { s with schedule := [m] }

/-! ### Well-formedness: ill-formed terms are refused (R95) -/

theorem test_wf_count_zero : (Instr.mbTxSubmit ⟨1, 0, 0⟩).wf = false := by decide
theorem test_wf_count_nine : (Instr.mbTxSubmit ⟨1, 0, 9⟩).wf = false := by decide
theorem test_wf_count_in_range :
    (Instr.mbTxSubmit ⟨1, 0, 1⟩).wf = true ∧ (Instr.mbTxSubmit ⟨1, 0, 8⟩).wf = true := by decide
theorem test_wf_frame_nine_bytes : ({ id := 0x5#11, payload := [1, 2, 3, 4, 5, 6, 7, 8, 9] } : Frame).wf = false := by decide

/-! ### Every constructor's word, from the tables of 30_encoding.md (R101, R104, R105, R106) -/

theorem test_decode_init : decode .cmd 0x01 = .ok .init := rfl
theorem test_decode_receive : decode .cmd 0x050000000A02 = .ok (.receive 10 5) := rfl
theorem test_decode_transmit : decode .cmd 0x050000000A03 = .ok (.transmit 10 5) := rfl
theorem test_decode_marshal : decode .cmd 0x050000000504 = .ok (.marshal 5 5) := rfl
theorem test_decode_rx_poll : decode .phase 0b0001 = .ok .rxPoll := rfl
theorem test_decode_rx_req : decode .phase 0b0010 = .ok .rxReq := rfl
theorem test_decode_rx_len : decode .phase 0b0011 = .ok .rxLen := rfl
theorem test_decode_rx_copy : decode .phase 0b0100 = .ok .rxCopy := rfl
theorem test_decode_rx_rearm : decode .phase 0b0101 = .ok .rxRearm := rfl
theorem test_decode_rx_acct : decode .phase 0b0110 = .ok .rxAcct := rfl
theorem test_decode_tx_wait : decode .phase 0b1000 = .ok .txWait := rfl
theorem test_decode_tx_delay : decode .phase 0b1001 = .ok .txDelay := rfl
theorem test_decode_tx_chunk : decode .phase 0b1010 = .ok .txChunk := rfl
theorem test_decode_tx_submit : decode .phase 0b1011 = .ok .txSubmit := rfl
theorem test_decode_tx_advance : decode .phase 0b1100 = .ok .txAdvance := rfl
theorem test_decode_m_fetch : decode .mphase 0b01 = .ok .mFetch := rfl
theorem test_decode_m_emit : decode .mphase 0b10 = .ok .mEmit := rfl
theorem test_decode_mb_rx_newdat : decode .prim 0b0000 = .ok .mbRxNewdat := rfl
theorem test_decode_mb_rx_request : decode .prim 0b0001 = .ok .mbRxRequest := rfl
theorem test_decode_mb_rx_len : decode .prim 0b0010 = .ok .mbRxLen := rfl
theorem test_decode_mb_rx_data : decode .prim 0b100011 = .ok (.mbRxData 2) := rfl
theorem test_decode_mb_rx_rearm : decode .prim 0b0100 = .ok .mbRxRearm := rfl
theorem test_decode_mb_tx_ready : decode .prim 0b0101 = .ok .mbTxReady := rfl
theorem test_decode_mb_tx_submit : decode .prim 0x052000000086 = .ok (.mbTxSubmit ⟨5, 8, 2⟩) := rfl
theorem test_decode_delay : decode .prim 0b0111 = .ok .delay := rfl
theorem test_decode_mb_init : decode .prim 0b1000 = .ok .mbInit := rfl

/-- V-E4, R109: codes that name nothing. -/
theorem test_decode_reserved :
    decode .cmd 0x00 = .error (.cmdIllegal 0x00#8) ∧ decode .cmd 0x05 = .error (.cmdIllegal 0x05#8) ∧
    decode .cmd 0xFF = .error (.cmdIllegal 0xFF#8) ∧ decode .phase 0x7 = .error (.reservedPhase 0x7#4) ∧
    decode .phase 0xF = .error .faulted ∧ decode .mphase 3 = .error (.reservedMPhase 3#2) ∧
    decode .prim 0x9 = .error (.reservedPrim 0x9#4) ∧ decode .prim 0x9000000006 = .error (.descCount 9#4) :=
  ⟨rfl, rfl, rfl, rfl, rfl, rfl, rfl, rfl⟩

theorem test_encode_receive : encode (.receive 10 5) = (.cmd, 0x050000000A02) := rfl
theorem test_encode_mb_tx_submit : encode (.mbTxSubmit ⟨5, 8, 2⟩) = (.prim, 0x052000000086) := rfl

/-- Table words: a CMD code, a PHASE code, an MPHASE code, and a PRIM code no other format has (log 4). -/
theorem test_table_words :
    decodeTableWord 72 0x050000000A02 = some (.receive 10 5) ∧ decodeTableWord 4 0xB = some .txSubmit ∧
    decodeTableWord 2 2 = some .mEmit ∧ decodeTableWord 4 0x7 = some .delay ∧ decodeTableWord 2 3 = none := by decide

/-! ### Commands -/

/-- V-MB1. -/
theorem test_init : let t := got (exec .init State.reset)
    t.inited = true ∧ t.txmb.id = 0x2#11 ∧ t.rxmb.id = 0x5#11 ∧ t.rxmb.mask = 0x7FF#11 ∧ t.rxmb.filter = true ∧
    t.txmb.pending = false ∧ t.rxmb.newdat = false ∧ t.phase = 0x0#4 ∧ t.busy = false ∧ t.status = 0x02#8 := by decide
/-- V-F3. -/
theorem test_init_twice : (got (exec .init ready)).faultCode = 8#4 ∧ (got (exec .init ready)).phase = 0xF#4 := by decide
/-- P2 step 2. -/
theorem test_receive : let t := got (exec (.receive 10 1) ready)
    t.phase = 0x1#4 ∧ t.rxOffset = 0 ∧ t.rxRemaining = 10 ∧ t.busy = true ∧ t.status = 0x03#8 := by decide
/-- V-F1, V-E3. -/
theorem test_receive_not_initialised : (got (exec (.receive 1 1) State.reset)).status = 0x34#8 := by decide
/-- P1 step 1. -/
theorem test_transmit : let t := got (exec (.transmit 10 1) ready)
    t.phase = 0x8#4 ∧ t.txCursor = 0 ∧ t.txRemaining = 10 ∧ t.txFirst = true ∧ t.busy = true := by decide
/-- T4, V-TX1. -/
theorem test_transmit_empty : let t := got (exec (.transmit 0 1) ready)
    t.phase = 0x0#4 ∧ t.busy = false ∧ t.fault = false ∧ t.txmb = ready.txmb := by decide
/-- V-M13, acceptance. -/
theorem test_marshal : let t := got (exec (.marshal 3 1) ready)
    t.busy = true ∧ t.mN = 3 ∧ t.mK = 0 ∧ t.mPhase = 1#2 ∧ t.phase = 0x0#4 := by decide
/-- V-F7, V-M9. -/
theorem test_marshal_range : (got (exec (.marshal 9 1) State.reset)).faultCode = 6#4 := by decide
/-- V-F5: not CmdIllegal. -/
theorem test_busy_before_illegal : (got (step (next (.command ⟨0x09#8, 0, 0⟩) (receiving 1 1)))).status = 0x27#8 := by
  decide

/-! ### The receive engine -/

/-- P2 step 3. -/
theorem test_rx_poll : let t := got (exec .rxPoll { receiving 1 10 with rxLen := 8 })
    t.phase = 0x1#4 ∧ t.rxLen = 0 := by decide
/-- P2 step 6. -/
theorem test_rx_req : let t := got (exec .rxReq { receiving 2 10 with rxmb := fullMailbox })
    t.win = { d := ⟨0x0201, 0x0403, 0x0605, 0x0807⟩, len := 8, arb := 0x5#11 } ∧ t.phase = 0x3#4 ∧
    t.rxmb.newdat = true := by decide
/-- R144's example: the length that completes the transfer passes. -/
theorem test_rx_len : let t := got (exec .rxLen { receiving 3 2 with win := { windowB with len := 2 } })
    t.rxLen = 2 ∧ t.phase = 0x4#4 := by decide
/-- V-F6 and V-RX7: illegal before overrun; the status of P5. -/
theorem test_rx_len_faults :
    (got (exec .rxLen { receiving 3 4 with win := { windowB with len := 12 } })).faultCode = 4#4 ∧
    (got (exec .rxLen { receiving 3 4 with win := { windowB with len := 8 } })).status = 0x57#8 := by decide
/-- P4 step 9: an empty frame ends its run in the same step. -/
theorem test_rx_copy_empty : let t := got (exec .rxCopy { receiving 4 2 with rxLen := 0 })
    t.phase = 0x5#4 ∧ t.mPhase = 0#2 ∧ t.busy = true := by decide
/-- P2 step 19. -/
theorem test_rx_copy : let t := got (exec .rxCopy { receiving 4 2 with rxLen := 2, rxOffset := 8 })
    t.mDst = 1 ∧ t.mOff = 8 ∧ t.mN = 2 ∧ t.mK = 0 ∧ t.mPhase = 1#2 ∧ t.phase = 0x4#4 := by decide
/-- P2 step 13. -/
theorem test_rx_rearm : let t := got (exec .rxRearm { receiving 5 10 with rxmb := fullMailbox })
    t.rxmb.newdat = false ∧ t.rxmb.data = fullMailbox.data ∧ t.phase = 0x6#4 := by decide
/-- P2 steps 14 and 22. -/
theorem test_rx_acct : let t := got (exec .rxAcct { receiving 6 10 with rxLen := 8 })
    t.rxOffset = 8 ∧ t.rxRemaining = 2 ∧ t.phase = 0x1#4 ∧ t.busy = true := by decide
theorem test_rx_acct_last : let t := got (exec .rxAcct { receiving 6 2 with rxLen := 2, rxOffset := 8 })
    t.rxOffset = 10 ∧ t.rxRemaining = 0 ∧ t.phase = 0x0#4 ∧ t.busy = false := by decide

/-! ### The transmit engine -/

/-- P1 step 2, P6 run 1 step 6: the bypass does not look at the mailbox. -/
theorem test_tx_wait_bypass : let t := got (exec .txWait { sending 8 10 with txFirst := true, txmb := pendingMailbox })
    t.txFirst = false ∧ t.phase = 0x9#4 := by decide
/-- P1 step 7. -/
theorem test_tx_wait : (got (exec .txWait { sending 8 10 with txmb := pendingMailbox })).phase = 0x8#4 := by decide
/-- P1 step 3. -/
theorem test_tx_delay : got (exec .txDelay (sending 9 10)) = sending 0xA 10 := by decide
/-- V-E5. -/
theorem test_tx_chunk : (got (exec .txChunk (sending 0xA 10))).txChunk = 8 ∧
    (got (exec .txChunk (sending 0xA 2))).txChunk = 2 := by decide
/-- V-TX12: compared at SIZE_W bits, 0xFFFFFFF0 has zeros in its low four bits. -/
theorem test_tx_chunk_wide : (got (exec .txChunk (sending 0xA 0xFFFFFFF0#32))).txChunk = 8 := by decide
/-- V-TX18, P1 step 12. -/
theorem test_tx_submit : let t := got (exec .txSubmit { sending 0xB 2 with
      txCursor := 8, txChunk := 2, txmb := { pendingMailbox with pending := false } })
    t.txmb = { id := 0x2#11, filter := false, pending := true, data := ⟨9, 10, 3, 4, 5, 6, 7, 8⟩, dlc := 2 } ∧
    t.phase = 0xC#4 := by decide
/-- P6 run 1 step 7; V-TX17: index 9 of a 9-byte source. -/
theorem test_tx_submit_faults :
    (got (exec .txSubmit { sending 0xB 2 with txChunk := 2, txmb := pendingMailbox })).faultCode = 9#4 ∧
    (got (exec .txSubmit { sending 0xB 2 with txCursor := 8, txChunk := 2, caps := [(1, 9)] })).faultCode = 7#4 := by decide
/-- P1 step 6. -/
theorem test_tx_advance : let t := got (exec .txAdvance { sending 0xC 10 with txChunk := 8 })
    t.txCursor = 8 ∧ t.txRemaining = 2 ∧ t.phase = 0x8#4 := by decide
/-- P1 step 13. -/
theorem test_tx_advance_last : let t := got (exec .txAdvance { sending 0xC 2 with txChunk := 2, txCursor := 8 })
    t.txCursor = 10 ∧ t.txRemaining = 0 ∧ t.phase = 0x0#4 ∧ t.busy = false := by decide

/-! ### Register Marshalling -/

/-- A run in buffer 1 at register `k` of `n` bytes from offset `off`, in the given sub-phase. -/
def running (p : BitVec 2) (k : BitVec 3) (n : BitVec 4) (off : Size) (w : Reg16) : State :=
  { ready with busy := true, mPhase := p, mDst := 1, mOff := off, mN := n, mK := k, mWord := w, win := windowB }

/-- R122's example. -/
theorem test_m_fetch : let t := got (exec .mFetch (running 1 1 3 0 0))
    t.mWord = 0xCAFE#16 ∧ t.mPhase = 2#2 := by decide
/-- R123's example: FE at index 12, nothing at index 13, and the run ends; the command completes. -/
theorem test_m_emit_odd : let t := got (exec .mEmit (running 2 1 3 10 0xCAFE#16))
    t.byteAt 1 12 = 0xFE#8 ∧ t.byteAt 1 13 = 14#8 ∧ t.mK = 2 ∧ t.mPhase = 0#2 ∧ t.busy = false := by decide
/-- V-M13, first emit; V-M14: index 3 of a 3-byte buffer faults and drops the low byte too. -/
theorem test_m_emit : let t := got (exec .mEmit (running 2 0 3 0 0xBEEF#16))
    t.byteAt 1 0 = 0xEF#8 ∧ t.byteAt 1 1 = 0xBE#8 ∧ t.mK = 1 ∧ t.mPhase = 1#2 ∧
    got (exec .mEmit { running 2 1 4 0 0x0403#16 with caps := [(1, 3)] }) =
      { running 0 1 4 0 0x0403#16 with caps := [(1, 3)], fault := true, faultCode := 7#4, phase := 0xF#4 } := by decide

/-! ### The collaborator primitives and the environment -/

/-- V-MB4, R201. -/
theorem test_mb_rx_newdat : got (exec .mbRxNewdat { ready with rxmb := fullMailbox }) =
    { ready with rxmb := fullMailbox, primResult := 1 } := by decide
/-- R202's example on the defined bytes: dlc 3, data 11 22 33. -/
theorem test_mb_rx_request :
    let w := (got (exec .mbRxRequest { ready with rxmb := { fullMailbox with data := ⟨0x11, 0x22, 0x33, 0, 0, 0, 0, 0⟩, dlc := 3 } })).win
    w.len = 3 ∧ w.d.d0 = 0x2211#16 ∧ loByte w.d.d1 = 0x33#8 ∧ w.arb = 0x5#11 := by decide
/-- R203's example. -/
theorem test_mb_rx_len : (got (exec .mbRxLen { ready with win := { windowB with len := 8 } })).primResult = 8 := by decide
/-- R204's example. -/
theorem test_mb_rx_data :
    (got (exec (.mbRxData 2) { ready with win := ⟨⟨0x0201, 0x0403, 0x0605, 0x0807⟩, 0, 0⟩ })).primResult = 0x0605#16 := by
  decide
/-- V-MB8. -/
theorem test_mb_rx_rearm : let t := got (exec .mbRxRearm { ready with rxmb := fullMailbox, win := windowB })
    t.rxmb.newdat = false ∧ t.win = windowB := by decide
/-- V-MB7. -/
theorem test_mb_tx_ready : (got (exec .mbTxReady { ready with txmb := pendingMailbox })).primResult = 0 ∧
    (got (exec .mbTxReady ready)).primResult = 1 := by decide
/-- V-MB6. -/
theorem test_mb_tx_submit : let t := got (exec (.mbTxSubmit ⟨1, 8, 2⟩) ready)
    t.txmb.data.b0 = 9 ∧ t.txmb.data.b1 = 10 ∧ t.txmb.dlc = 2 ∧ t.txmb.pending = true := by decide
/-- V-MB9. -/
theorem test_delay : got (exec .delay ready) = ready := by decide
/-- R208. -/
theorem test_mb_init : let t := got (exec .mbInit { ready with rxmb := fullMailbox, txmb := pendingMailbox })
    t.txmb.pending = false ∧ t.rxmb.newdat = false ∧ t.txmb.id = 0x2#11 ∧ t.rxmb.id = 0x5#11 := by decide
/-- V-MB2. -/
theorem test_rx_deliver :
    let t := got (step (next .rxDeliver { ready with wireIn := [{ id := 0x5#11, payload := [9, 10] }] }))
    t.rxmb.dlc = 2 ∧ t.rxmb.data.b0 = 9 ∧ t.rxmb.data.b1 = 10 ∧ t.rxmb.arb = 0x5#11 ∧ t.rxmb.newdat = true ∧
    t.wireIn = [] := by decide
/-- V-RX10 (a frame with another identifier is discarded) and V-MB3 (none is delivered while one is undrained). -/
theorem test_rx_deliver_discards :
    (got (step (next .rxDeliver { ready with wireIn := [{ id := 0x4#11, payload := [1] }] }))).rxmb = ready.rxmb ∧
    (got (step (next .rxDeliver { ready with
      rxmb := fullMailbox, wireIn := [{ id := 0x5#11, payload := [1] }] }))).wireIn.length = 1 := by decide
/-- V-MB6, second half. -/
theorem test_tx_complete : let t := got (step (next .txComplete { ready with txmb := { pendingMailbox with dlc := 2 } }))
    t.wireOut = [{ id := 0x2#11, payload := [1, 2] }] ∧ t.txmb.pending = false := by decide

/-! ### Witnesses: for every obligation with hypotheses, concrete values that meet them -/

theorem witness_EncodeThenDecode : (Instr.mbTxSubmit ⟨7, 0xFFFFFFFF#32, 1⟩).wf = true ∧
    (Instr.mbTxSubmit ⟨7, 0, 8⟩).wf = true ∧ (Instr.marshal 0xFFFFFFFF#32 7).wf = true := by decide

theorem witness_DecodedWordHasTheCode :
    decode .cmd 0x04 = .ok (.marshal 0 0) ∧ decode .phase 0xC = .ok .txAdvance ∧ decode .mphase 2 = .ok .mEmit ∧
    decode .prim 0x1000000006 = .ok (.mbTxSubmit ⟨0, 0, 1⟩) := ⟨rfl, rfl, rfl, rfl⟩

theorem witness_ReservedCodesAreRefused :
    (nextMove { ready with phase := 0xE#4 } = .engine ∧ ready.mPhase = 0#2) ∧
    (nextMove { ready with mPhase := 3#2 } = .engine ∧ ready.phase ≠ 0xF#4) ∧
    ((next (.request 0x9#4 0 ⟨0, 0, 0⟩) ready).schedule.head? = some (.request 0x9#4 0 ⟨0, 0, 0⟩) ∧ ready.busy = false ∧
      0x9#4 ≤ 0x9#4) ∧
    ((next (.request 0x6#4 0 ⟨1, 0, 0⟩) ready).schedule.head? = some (.request 0x6#4 0 ⟨1, 0, 0⟩) ∧
      ¬ (1 ≤ (0 : Len).toNat ∧ (0 : Len).toNat ≤ 8) ∧ ¬ (1 ≤ (9 : Len).toNat ∧ (9 : Len).toNat ≤ 8)) := by decide

theorem witness_StepRunsTheDecodedOperation :
    ((receiving 1 1).schedule = [] ∧ (receiving 1 1).phase ≠ 0xF#4 ∧ (receiving 1 1).mPhase = 0#2) ∧
    decodePhase (receiving 1 1).phase = .ok .rxPoll ∧
    ((next .engine (running 2 0 1 0 0)).schedule.head? = some .engine ∧ (running 2 0 1 0 0).mPhase ≠ 0#2) ∧
    decodeMPhase (running 2 0 1 0 0).mPhase = .ok .mEmit ∧
    (next (.command ⟨0x04#8, 8, 1⟩) ready).schedule.head? = some (.command ⟨0x04#8, 8, 1⟩) ∧
    decodeCmd 0x04#8 8 1 = .ok (.marshal 8 1) ∧
    ((next (.request 3 3 ⟨0, 0, 0⟩) ready).schedule.head? = some (.request 3 3 ⟨0, 0, 0⟩) ∧ ready.busy = false) ∧
    decodePrim 3 3 ⟨0, 0, 0⟩ = .ok (.mbRxData 3) ∧
    ((next (.request 3 3 ⟨0, 0, 0⟩) (receiving 1 1)).schedule.head? = some (.request 3 3 ⟨0, 0, 0⟩) ∧
      (receiving 1 1).busy = true) :=
  ⟨by decide, rfl, by decide, rfl, by decide, rfl, by decide, rfl, by decide⟩

theorem witness_PlacedWordRunsNext : decodeTableWord 8 0x01 = some .init ∧ decodeTableWord 4 0xC = some .txAdvance ∧
    decodeTableWord 2 1 = some .mFetch ∧ decodeTableWord 4 0x0 = some .mbRxNewdat := by decide

theorem witness_InitConfigures :
    State.reset.phase ≠ 0xF#4 ∧ State.reset.busy = false ∧ State.reset.inited = false := by decide

theorem witness_ReceiveStarts : ready.phase ≠ 0xF#4 ∧ ready.busy = false ∧ ready.inited = true := by decide

theorem witness_TransmitStarts : ready.phase ≠ 0xF#4 ∧ ready.busy = false ∧ ready.inited = true := by decide

theorem witness_MarshalStarts : ready.phase = 0x0#4 ∧ ready.busy = false ∧ (0 : Size).toNat ≤ 8 ∧ (8 : Size).toNat ≤ 8 := by
  decide

theorem witness_CommandPortFaults :
    (next (.command ⟨0x01#8, 0, 0⟩) { ready with phase := 0xF#4 }).phase = 0xF#4 ∧
    ((receiving 1 1).phase ≠ 0xF#4 ∧ (receiving 1 1).busy = true) ∧
    (¬ (1 ≤ (0x00#8).toNat ∧ (0x00#8).toNat ≤ 4) ∧ ¬ (1 ≤ (0x05#8).toNat ∧ (0x05#8).toNat ≤ 4)) ∧
    (ready.phase ≠ 0xF#4 ∧ ready.busy = false ∧ ready.inited = true) ∧
    (State.reset.phase ≠ 0xF#4 ∧ State.reset.busy = false ∧ State.reset.inited = false) ∧
    8 < (9 : Size).toNat := by decide

theorem witness_RxPollWaitsForNewData : (receiving 1 1).phase = 0x1#4 ∧ (receiving 1 1).mPhase = 0#2 ∧
    (receiving 1 1).rxmb.newdat = false ∧ (receiving 1 1).schedule = [] := by decide

/-- A receive that is about to request a frame, one that is about to re-arm, and a transmit: states that meet the invariant. -/
theorem inv_rx_req : ({ receiving 2 10 with rxmb := fullMailbox } : State).Inv := by constructor <;> decide
theorem inv_rx_rearm : ({ receiving 5 10 with rxmb := fullMailbox, rxLen := 8 } : State).Inv := by constructor <;> decide
theorem inv_tx_submit : ({ sending 0xB 10 with txChunk := 8 } : State).Inv := by constructor <;> decide
theorem inv_running : (running 1 3 8 0 0).Inv := by constructor <;> decide
theorem inv_ready : ready.Inv := by constructor <;> decide

theorem witness_RequestLatchesOneFrame : ∃ s : State, s.Inv ∧ s.phase = 0x2#4 := ⟨_, inv_rx_req, by decide⟩

theorem witness_RxLenTakesTheLength :
    (let s := { receiving 3 8 with win := { windowB with len := 8 } };
      s.win.len.toNat ≤ 8 ∧ s.win.len.toNat ≤ s.rxRemaining.toNat) ∧
    (let s := receiving 3 1;
      s.win.len.toNat ≤ 8 ∧ s.win.len.toNat ≤ s.rxRemaining.toNat) := by decide

theorem witness_RxLenRejectsTheLength :
    8 < ({ receiving 3 9 with win := { windowB with len := 9 } } : State).win.len.toNat ∧
    (let s := { receiving 3 7 with win := { windowB with len := 8 } };
      s.win.len.toNat ≤ 8 ∧ s.rxRemaining.toNat < s.win.len.toNat) := by decide

theorem witness_RxCopyStartsTheRun : (receiving 4 1).phase = 0x4#4 := by decide

theorem witness_RxAcctClosesTheLoop :
    (∃ s t : State, s.Inv ∧ step s = .next t ∧ t.phase = 0x6#4) ∧
    ((receiving 6 1).rxLen = 0 ∧ (receiving 6 1).rxRemaining ≠ 0) :=
  ⟨⟨_, _, inv_rx_rearm, rfl, by decide⟩, by decide⟩

theorem witness_TxWaitBypassesOnce :
    ({ sending 8 1 with txFirst := true } : State).txFirst = true ∧
    ((sending 8 1).txFirst = false ∧ (sending 8 1).txmb.pending = false) ∧
    (let s := { sending 8 1 with txmb := pendingMailbox };
      s.phase = 0x8#4 ∧ s.mPhase = 0#2 ∧ s.txFirst = false ∧ s.txmb.pending = true ∧ s.schedule = []) := by decide

theorem witness_TxSubmitFillsTheMailbox :
    (let s := { sending 0xB 16 with txCursor := 8, txChunk := 8 };
      s.txmb.pending = false ∧ s.txChunk.toNat ≤ 8 ∧
      ∀ i < s.txChunk.toNat, (s.txCursor + BitVec.ofNat 32 i).toNat < s.cap s.txSrc) := by decide

theorem witness_SubmitFaults :
    pendingMailbox.pending = true ∧
    (let s := { sending 0xB 16 with txCursor := 9, txChunk := 8 };
      s.txmb.pending = false ∧ s.txChunk.toNat ≤ 8 ∧
      ∃ i < s.txChunk.toNat, s.cap s.txSrc ≤ (s.txCursor + BitVec.ofNat 32 i).toNat) ∧
    (let d : TxDesc := ⟨1, 16, 1⟩;
      ready.txmb.pending = false ∧ d.wf = true ∧
      ∃ i < d.count.toNat, ready.cap d.buf ≤ (d.index + BitVec.ofNat 32 i).toNat) := by decide

theorem witness_MFetchReadsOneRegister : (running 1 3 8 0 0).mK.toNat < 4 := by decide

theorem witness_MEmitStoresTheBytes :
    (let s := running 2 3 8 8 0xCAFE#16;
      s.mem.wf = true ∧ (lowIndex s).toNat < s.cap s.mDst ∧ 2 * s.mK.toNat + 1 < s.mN.toNat ∧
      (highIndex s).toNat < s.cap s.mDst) ∧
    (let s := running 2 3 7 9 0xCAFE#16;
      s.mem.wf = true ∧ (lowIndex s).toNat < s.cap s.mDst ∧ ¬ 2 * s.mK.toNat + 1 < s.mN.toNat) ∧
    (let s := running 2 0 1 16 0;
      s.cap s.mDst ≤ (lowIndex s).toNat) ∧
    (let s := running 2 3 8 9 0;
      2 * s.mK.toNat + 1 < s.mN.toNat ∧ s.cap s.mDst ≤ (highIndex s).toNat) := by decide

theorem witness_MarshallingRunCopiesTheWindow :
    ready.mem.wf = true ∧ (8 : BitVec 4).toNat ≤ 8 ∧ ready.schedule = [] ∧
    (ready.phase = 0x0#4 ∧ (receiving 4 8).phase = 0x4#4) ∧
    (∀ i < (8 : BitVec 4).toNat, ((8 : Size) + BitVec.ofNat 32 i).toNat < ready.cap 1) := by decide

theorem witness_DiscardedByteHasNoInfluence :
    (running 2 1 3 10 0xCAFE#16).mN.toNat = 2 * (running 2 1 3 10 0xCAFE#16).mK.toNat + 1 ∧
    ∃ t : State, exec .mEmit (running 2 1 3 10 0xCAFE#16) = .next t := ⟨by decide, _, rfl⟩

theorem witness_SubmitPrimitiveFillsTheMailbox :
    (⟨1, 8, 8⟩ : TxDesc).wf = true ∧ ready.txmb.pending = false ∧
    ∀ i < (⟨1, 8, 8⟩ : TxDesc).count.toNat, ((8 : Size) + BitVec.ofNat 32 i).toNat < ready.cap 1 := by decide

/-- A state that may deliver this frame. -/
def delivering (f : Frame) : State := next .rxDeliver { ready with wireIn := [f] }

theorem witness_DeliverStoresAnAcceptedFrame :
    (let f : Frame := ⟨0x5#11, [1, 2, 3, 4, 5, 6, 7, 8]⟩;
      let s := delivering f;
      s.schedule.head? = some .rxDeliver ∧ s.inited = true ∧ s.rxmb.newdat = false ∧ s.wireIn = f :: [] ∧
      f.payload.length ≤ 8 ∧ f.id &&& s.rxmb.mask = s.rxmb.id &&& s.rxmb.mask) ∧
    (let f : Frame := ⟨0x4#11, []⟩;
      let s := delivering f;
      s.schedule.head? = some .rxDeliver ∧ s.wireIn = f :: [] ∧ f.payload.length ≤ 8 ∧
      f.id &&& s.rxmb.mask ≠ s.rxmb.id &&& s.rxmb.mask) := by decide

theorem witness_DeliverWaits :
    (next .rxDeliver State.reset).schedule.head? = some .rxDeliver ∧ (next .rxDeliver State.reset).inited = false ∧
    (next .rxDeliver ready).wireIn = [] ∧ (next .rxDeliver { ready with rxmb := fullMailbox }).rxmb.newdat = true := by
  decide

theorem witness_CompleteSendsThePendingFrame :
    (next .txComplete ready).schedule.head? = some .txComplete ∧ (next .txComplete ready).txmb.pending = false ∧
    (next .txComplete { ready with txmb := pendingMailbox }).txmb.pending = true := by decide

theorem witness_PeerSendAppends :
    let f : Frame := ⟨0x5#11, [1, 2, 3, 4, 5, 6, 7, 8]⟩
    (next (.peerSend f) ready).schedule.head? = some (.peerSend f) ∧ f.payload.length ≤ 8 := by decide

theorem witness_LentBufferReadsBack :
    (let s := next (.lend 2 [1, 0, 3]) ready;
      s.schedule.head? = some (.lend 2 [1, 0, 3]) ∧ s.mem.wf = true ∧ Cells.wf 0 s.caps = true ∧
      ([1, 0, 3] : List Byte).length ≤ 4294967296 ∧ s.busy = false) ∧
    (next (.lend 2 [1, 0, 3]) (receiving 1 1)).busy = true := by decide

theorem witness_ResetLeavesTheStatedValues : (next .reset (receiving 1 1)).schedule.head? = some .reset := by decide

theorem witness_MissingLocationsStop :
    4 ≤ (running 1 4 8 0 0).mK.toNat ∧
    (ready.txmb.pending = false ∧ 8 < ({ sending 0xB 9 with txChunk := 9 } : State).txChunk.toNat) ∧
    8 < (⟨1, 0, 9⟩ : TxDesc).count.toNat := by decide

theorem witness_StepKeepsTheInvariant : ∃ s t : State, s.Inv ∧ step s = .next t := ⟨_, _, inv_tx_submit, rfl⟩

theorem witness_InvariantStatesNeverStop : ready.Inv ∧ ready.refusedRequest = false ∧
    (next (.request 6 0 ⟨1, 0, 8⟩) ready).refusedRequest = false := ⟨inv_ready, by decide, by decide⟩

theorem witness_EngineFollowsTheSuccessorTable :
    (running 1 3 8 0 0).Inv ∧ nextMove (running 1 3 8 0 0) = .engine ∧ ∃ t, step (running 1 3 8 0 0) = .next t :=
  ⟨inv_running, by decide, _, rfl⟩

/-- A block in FAULTED. -/
def faulted : State := raise .rxLengthOverrun (receiving 3 4)

theorem witness_FaultIsSticky :
    (faulted.fault = true ∧ nextMove faulted ≠ .reset ∧ nextMove faulted = .engine ∧ faulted.phase = 0xF#4) ∧
    nextMove (next (.command ⟨0x01#8, 0, 0⟩) faulted) = .command ⟨0x01#8, 0, 0⟩ ∧
    ∃ t, step faulted = .next t := ⟨by decide, by decide, _, rfl⟩

theorem witness_OnlyEmitAndTheCallerWriteMemory :
    (∃ t, step (running 2 3 8 8 0xCAFE#16) = .next t) ∧ nextMove (running 2 3 8 8 0xCAFE#16) = .engine ∧
    (∃ t, step (running 1 3 8 0 0) = .next t) ∧
    ¬ (nextMove (running 1 3 8 0 0) = .engine ∧ (running 1 3 8 0 0).mPhase = 2#2) :=
  ⟨⟨_, rfl⟩, by decide, ⟨_, rfl⟩, by decide⟩

theorem witness_WindowChangesOnlyAtARequest :
    let s : State := { receiving 2 10 with rxmb := fullMailbox }
    step s = .next (got (step s)) ∧ (got (step s)).win ≠ s.win := ⟨rfl, by decide⟩

theorem witness_MailboxFlagsHaveOneSetter :
    (let s := delivering ⟨0x5#11, [1]⟩;
      s.rxmb.newdat = false ∧ (got (step s)).rxmb.newdat = true) ∧
    (let s : State := { receiving 5 10 with rxmb := fullMailbox };
      s.rxmb.newdat = true ∧ (got (step s)).rxmb.newdat = false) ∧
    (let s : State := { sending 0xB 8 with txChunk := 8 };
      s.txmb.pending = false ∧ (got (step s)).txmb.pending = true) ∧
    (let s : State := next .txComplete { ready with txmb := pendingMailbox };
      s.txmb.pending = true ∧ (got (step s)).txmb.pending = false) := by decide

theorem witness_ConfigurationIsFixed :
    ready.inited = true ∧ nextMove ready ≠ .reset ∧ (∀ k d, nextMove ready ≠ .request 0x8#4 k d) ∧
    ∃ t, step ready = .next t := ⟨by decide, by decide, fun _ _ h => Move.noConfusion h, _, rfl⟩

theorem witness_PositionPlusRemainingIsTheSize :
    (sending 0xC 8).busy = true ∧ nextMove (sending 0xC 8) ≠ .reset ∧ ∃ t, step (sending 0xC 8) = .next t :=
  ⟨by decide, by decide, _, rfl⟩

/-- A TRANSMIT of 10 bytes in its second frame, with the first sent. -/
def secondFrame (p : BitVec 4) (n : Len) : State :=
  { sending p 2 with txCursor := 8, txChunk := n, wireOut := [⟨0x2#11, [1, 2, 3, 4, 5, 6, 7, 8]⟩] }

theorem witness_TransmitHandsOverTheSlices :
    (ready.Inv ∧ ready.phase = 0x0#4 ∧ ready.busy = false ∧ ready.inited = true ∧ (10 : Size) ≠ 0) ∧
    (TxProgress 1 10 [] (secondFrame 0xB 2) ∧ nextMove (secondFrame 0xB 2) ≠ .reset ∧
      ∃ t, step (secondFrame 0xB 2) = .next t) :=
  ⟨⟨inv_ready, by decide, by decide, by decide, by decide⟩, by constructor <;> decide, by decide, _, rfl⟩

theorem witness_TransmitCanComplete :
    TxProgress 1 10 [] (secondFrame 0x8 8) ∧ (secondFrame 0x8 8).phase = 0x8#4 ∧
    (secondFrame 0x8 8).txmb.pending = false ∧ (10 : Size).toNat ≤ (secondFrame 0x8 8).cap 1 :=
  ⟨by constructor <;> decide, by decide, by decide, by decide⟩

/-- A RECEIVE of 10 bytes that has drained 8 of them; the other two are on the wire. -/
def lastFrame : State :=
  { receiving 1 2 with rxOffset := 8, wireIn := [⟨0x5#11, []⟩, ⟨0x5#11, [0xAA, 0xBB]⟩] }

theorem witness_ReceiveWritesInArrivalOrder :
    (ready.Inv ∧ ready.phase = 0x0#4 ∧ ready.busy = false ∧ ready.inited = true ∧ (10 : Size) ≠ 0) ∧
    (RxProgress 1 10 [1, 2, 3, 4, 5, 6, 7, 8, 0xAA, 0xBB] lastFrame ∧ nextMove lastFrame ≠ .reset ∧
      ∃ t, step lastFrame = .next t) :=
  ⟨⟨inv_ready, by decide, by decide, by decide, by decide⟩, by constructor <;> decide, by decide, _, rfl⟩

theorem witness_ReceiveCanComplete :
    RxProgress 1 10 [1, 2, 3, 4, 5, 6, 7, 8, 0xAA, 0xBB] lastFrame ∧ lastFrame.phase = 0x1#4 ∧
    lastFrame.rxmb.newdat = false ∧ (10 : Size).toNat ≤ lastFrame.cap 1 ∧
    (∀ f ∈ lastFrame.wireIn, lastFrame.rxmb.matches f.id = true) ∧
    (lastFrame.wireIn.flatMap Frame.payload).length = lastFrame.rxRemaining.toNat :=
  ⟨by constructor <;> decide, by decide, by decide, by decide, by decide, by decide⟩

theorem witness_LoopbackWireKeepsTheBytes :
    let p : Pair := { a := secondFrame 0xC 2, b := ready }
    p.b.Inv ∧ p.b.inited = true ∧ ∀ f ∈ p.a.wireOut, f.id = 0x2#11 ∧ f.wf = true :=
  ⟨inv_ready, by decide, by decide⟩

theorem witness_InstancesShareOnlyTheWire :
    (∃ t, step ready = .next t) ∧ Pair.reset.wf = true ∧
    (∃ q, pairMove .stepA Pair.reset = .next q) ∧ (∃ q, pairMove .relay Pair.reset = .next q) :=
  ⟨⟨_, rfl⟩, by decide, ⟨_, rfl⟩, ⟨_, rfl⟩⟩

end Sys2Proof.Tests
end

section
/-! PROOF. The receive engine's two states as a function of the phase (10_state.md R30). -/

namespace Sys2Proof.Machine

theorem rxState_eq_idlePoll_iff (s : State) : s.rxState = some .idlePoll ↔ s.phase = Phase.rxPoll := by
  unfold State.rxState
  split_ifs with hpoll hdrain
  · exact iff_of_true rfl hpoll
  · exact iff_of_false (by simp) hpoll
  · exact iff_of_false (by simp) hpoll

/-- The definition tests `RX_POLL` first; it hides no draining phase, the six codes being distinct. -/
theorem rxState_eq_draining_iff (s : State) :
    s.rxState = some .draining ↔ s.phase = Phase.rxReq ∨ s.phase = Phase.rxLen ∨ s.phase = Phase.rxCopy ∨
      s.phase = Phase.rxRearm ∨ s.phase = Phase.rxAcct := by
  unfold State.rxState
  split_ifs with hpoll hdrain
  · exact iff_of_false (by simp) (by rw [hpoll]; decide)
  · exact iff_of_true rfl hdrain
  · exact iff_of_false (by simp) hdrain

theorem rxState_eq_none_iff_not_idlePoll_draining (s : State) :
    s.rxState = none ↔ ¬ (s.rxState = some .idlePoll ∨ s.rxState = some .draining) := by
  rcases s.rxState with _ | _ | _ <;> simp

/-- The phase codes 1 to 6 are the receive engine's (30_encoding.md R104). -/
theorem receivePhase_iff_toNat_range (p : BitVec 4) :
    (p = Phase.rxPoll ∨ p = Phase.rxReq ∨ p = Phase.rxLen ∨ p = Phase.rxCopy ∨ p = Phase.rxRearm ∨ p = Phase.rxAcct) ↔
      1 ≤ p.toNat ∧ p.toNat ≤ 6 := by
  bv_omega

/-- Settles O51: each of the two states by its own phases, and undefined as the complement of the two. -/
theorem receiveStateOfThePhase : Obligations.ReceiveStateOfThePhase := by
  intro s
  refine ⟨rxState_eq_idlePoll_iff s, rxState_eq_draining_iff s, ?_⟩
  rw [rxState_eq_none_iff_not_idlePoll_draining, rxState_eq_idlePoll_iff, rxState_eq_draining_iff,
    receivePhase_iff_toNat_range]

end Sys2Proof.Machine
end

section
/-! PROOF. The size of a frame to send (30_encoding.md R97). -/

namespace Sys2Proof.Machine

theorem exec_txChunk (s : State) :
    exec .txChunk s = .next { s with txChunk := chunkSize s.txRemaining, phase := Phase.txSubmit } := rfl

/-- Settles O23: the step writes `chunkSize` of the remaining count, which is the minimum for every count, not only a small one. -/
theorem txChunkIsTheMinimum : Obligations.TxChunkIsTheMinimum := by
  intro s
  exact ⟨_, exec_txChunk s, chunkSize_toNat s.txRemaining, rfl⟩

end Sys2Proof.Machine
end

section
/-! PROOF. The stores of `M_EMIT` and where the run goes after them (40_marshalling.md R123). -/

namespace Sys2Proof.Machine

theorem exec_mEmit (s : State) : exec .mEmit s = attempt ((emitBytes s).map emitNext) s := rfl

/-! ### The stores -/

theorem wantsHigh_iff (s : State) : wantsHigh s = true ↔ 2 * s.mK.toNat + 1 < s.mN.toNat := by
  simp [wantsHigh]

/-- Memory after the stores of `M_EMIT`, when neither faults. -/
def emittedMem (s : State) : Memory :=
  if wantsHigh s then
    (s.mem.write (cellOf s.mDst (lowIndex s)) (loByte s.mWord)).write (cellOf s.mDst (highIndex s)) (hiByte s.mWord)
  else s.mem.write (cellOf s.mDst (lowIndex s)) (loByte s.mWord)

theorem emitBytes_of_inRange {s : State} (hlo : (lowIndex s).toNat < s.cap s.mDst)
    (hhi : wantsHigh s = true → (highIndex s).toNat < s.cap s.mDst) :
    emitBytes s = .ok { s with mem := emittedMem s } := by
  unfold emitBytes emittedMem
  rw [bufWrite_ok.mpr ⟨hlo, rfl⟩]
  by_cases hw : wantsHigh s = true
  · simp only [hw, if_true]
    exact bufWrite_ok.mpr ⟨hhi hw, rfl⟩
  · simp only [hw, Bool.false_eq_true, if_false]

/-- The fault on the high byte is this one too: the whole of `emitBytes` fails, and with it the low byte's store. -/
theorem emitBytes_of_outOfRange {s : State} (h : s.cap s.mDst ≤ (lowIndex s).toNat ∨
    (wantsHigh s = true ∧ s.cap s.mDst ≤ (highIndex s).toNat)) : emitBytes s = .error .bufferRange := by
  cases he : emitBytes s with
  | error c => rw [emitBytes_error he]
  | ok t =>
    obtain ⟨hlo, hhi, -⟩ := emitBytes_ok he
    rcases h with hlo' | ⟨hw, hhi'⟩
    · omega
    · have := hhi hw
      omega

/-- `m_k` has three bits, so adding the two byte numbers to `m_off` modulo `2 ^ SIZE_W` cannot make them meet. -/
theorem lowIndex_ne_highIndex (s : State) : lowIndex s ≠ highIndex s := by
  unfold lowIndex highIndex
  bv_omega

theorem lowCell_ne_highCell (s : State) : cellOf s.mDst (lowIndex s) ≠ cellOf s.mDst (highIndex s) :=
  fun e => lowIndex_ne_highIndex s (cellOf_inj e).2

theorem emittedMem_read_low {s : State} (hm : s.mem.wf = true) :
    (emittedMem s).read (cellOf s.mDst (lowIndex s)) = loByte s.mWord := by
  unfold emittedMem
  split
  · rw [Memory.read_write_other _ _ (lowCell_ne_highCell s), Memory.read_write_same _ _ _ hm]
  · exact Memory.read_write_same _ _ _ hm

theorem emittedMem_read_high {s : State} (hm : s.mem.wf = true) (hw : wantsHigh s = true) :
    (emittedMem s).read (cellOf s.mDst (highIndex s)) = hiByte s.mWord := by
  rw [emittedMem, if_pos hw]
  exact Memory.read_write_same _ _ _ (Memory.wf_write _ _ _ hm)

theorem emittedMem_read_other {s : State} {a : Nat} (hlo : a ≠ cellOf s.mDst (lowIndex s))
    (hhi : wantsHigh s = true → a ≠ cellOf s.mDst (highIndex s)) : (emittedMem s).read a = s.mem.read a := by
  unfold emittedMem
  split
  · next hw => rw [Memory.read_write_other _ _ (hhi hw), Memory.read_write_other _ _ hlo]
  · exact Memory.read_write_other _ _ hlo

/-! ### After the stores -/

@[simp] theorem emitNext_mem (s : State) : (emitNext s).mem = s.mem := by
  unfold emitNext
  split <;> rfl

/-- The three ways on: the next register, back to the receive engine, or the command completes. -/
theorem emitNext_eq (s : State) :
    emitNext s = if 2 * (s.mK.toNat + 1) < s.mN.toNat then { s with mK := s.mK + 1, mPhase := MPhase.fetch }
      else if s.phase = Phase.rxCopy then { s with mK := s.mK + 1, mPhase := MPhase.idle, phase := Phase.rxRearm }
      else { s with mK := s.mK + 1, mPhase := MPhase.idle, busy := false } := by
  unfold emitNext endRun
  split
  · rfl
  · by_cases hp : s.phase = Phase.rxCopy
    · simp only [hp, if_true]
    · simp only [hp, if_false]

/-! ### The whole step -/

theorem exec_mEmit_of_inRange {s : State} (hlo : (lowIndex s).toNat < s.cap s.mDst)
    (hhi : wantsHigh s = true → (highIndex s).toNat < s.cap s.mDst) :
    exec .mEmit s = .next (emitNext { s with mem := emittedMem s }) := by
  rw [exec_mEmit, emitBytes_of_inRange hlo hhi]
  rfl

theorem exec_mEmit_of_outOfRange {s : State} (h : s.cap s.mDst ≤ (lowIndex s).toNat ∨
    (wantsHigh s = true ∧ s.cap s.mDst ≤ (highIndex s).toNat)) : exec .mEmit s = .next (raise .bufferRange s) := by
  rw [exec_mEmit, emitBytes_of_outOfRange h]
  rfl

/-- Settles O28: inside the buffer the step is `emitNext` after the stores of `emittedMem`, whose two cells differ; outside it
`emitBytes` fails as a whole. -/
theorem mEmitStoresTheBytes : Obligations.MEmitStoresTheBytes := by
  unfold Obligations.MEmitStoresTheBytes
  simp only [← wantsHigh_iff]
  refine ⟨rfl, fun s => ⟨rfl, rfl⟩, ?_, fun s h => exec_mEmit_of_outOfRange h⟩
  intro s hm hlo hhi
  refine ⟨_, exec_mEmit_of_inRange hlo hhi, ?_, ?_, ?_, ?_⟩
  · rw [State.byteAt, emitNext_mem, emittedMem_read_low hm, loByte_toNat]
  · intro hw
    rw [State.byteAt, emitNext_mem, emittedMem_read_high hm hw, hiByte_toNat]
  · intro a ha hah
    rw [emitNext_mem]
    exact emittedMem_read_other ha hah
  · rw [emitNext_mem]
    exact emitNext_eq _

end Sys2Proof.Machine
end

section
/-! PROOF. The receive engine's poll (41_receive.md R142). -/

namespace Sys2Proof.Machine

theorem exec_rxPoll (s : State) : exec .rxPoll s = .next (if s.rxmb.newdat
    then { s with phase := Phase.rxReq } else { s with rxLen := 0, phase := Phase.rxPoll }) :=
  (apply_ite Host.Outcome.next _ _ _).symm

theorem popMove_of_schedule_nil {s : State} (h : s.schedule = []) : popMove s = s := by
  cases s
  simp_all [popMove]

theorem fetchEngine_of_mIdle {s : State} (hp : s.phase ≠ Phase.faulted) (hm : s.mPhase = MPhase.idle) :
    fetchEngine s = decodePhase s.phase := by
  rw [fetchEngine, if_neg hp, if_pos hm]

/-- While no move is listed, the engine's is the step (log 3). -/
theorem step_of_schedule_nil {s : State} (h : s.schedule = []) : step s = runFetched (fetchEngine s) s := by
  rw [step, popMove_of_schedule_nil h, nextMove, h]
  rfl

theorem step_polls {s : State} (hp : s.phase = Phase.rxPoll) (hm : s.mPhase = MPhase.idle)
    (hn : s.rxmb.newdat = false) (hs : s.schedule = []) : step s = .next { s with rxLen := 0 } := by
  have hfetch : fetchEngine s = .ok .rxPoll := by
    rw [fetchEngine_of_mIdle (by simp [hp]) hm, hp]
    rfl
  calc step s = exec .rxPoll s := by rw [step_of_schedule_nil hs, hfetch]; rfl
    _ = .next { s with rxLen := 0 } := by rw [exec_rxPoll, hn, ← hp]; rfl

theorem run_succ_of_step {s t : State} (k : Nat) (h : step s = .next t) :
    Host.Core.run core (k + 1) s = Host.Core.run core k t := by
  have hcore : core.step s = .next t := h
  simp only [Host.Core.run, hcore]

/-- The state after one poll is one that polls again, and to the same state. -/
theorem run_polls (k : Nat) {s : State} (hp : s.phase = Phase.rxPoll) (hm : s.mPhase = MPhase.idle)
    (hn : s.rxmb.newdat = false) (hs : s.schedule = []) :
    Host.Core.run core (k + 1) s = .next { s with rxLen := 0 } := by
  induction k generalizing s with
  | zero => exact run_succ_of_step 0 (step_polls hp hm hn hs)
  | succ k ih =>
    rw [run_succ_of_step (k + 1) (step_polls hp hm hn hs)]
    exact ih (s := { s with rxLen := 0 }) hp hm hn hs

/-- Settles O13: one poll by the flag, and by induction on the number of polls that they lead nowhere while no agent moves. -/
theorem rxPollWaitsForNewData : Obligations.RxPollWaitsForNewData :=
  ⟨rfl, exec_rxPoll, fun _ k => run_polls k⟩

end Sys2Proof.Machine
end

section
/-! PROOF. Each decoder names operations of its own format (30_encoding.md R101, R104 to R106). -/

namespace Sys2Proof.Machine

theorem decodeCmd_format {c : BitVec 8} {n : Size} {b : Handle} {i : Instr} (h : decodeCmd c n b = .ok i) :
    i.format = .cmd := by
  unfold decodeCmd at h
  split at h <;> cases h <;> rfl

theorem decodeMPhase_format {c : BitVec 2} {i : Instr} (h : decodeMPhase c = .ok i) : i.format = .mphase := by
  unfold decodeMPhase at h
  split at h <;> cases h <;> rfl

theorem decodePrim_format {c : BitVec 4} {k : BitVec 2} {d : TxDesc} {i : Instr} (h : decodePrim c k d = .ok i) :
    i.format = .prim := by
  unfold decodePrim at h
  split at h
  case h_7 => split at h <;> cases h; rfl
  all_goals cases h <;> rfl

theorem decodePhase_rxRearm {p : BitVec 4} (h : decodePhase p = .ok .rxRearm) : p = Phase.rxRearm := by
  revert p
  decide

theorem fetchEngine_rxRearm {s : State} (h : fetchEngine s = .ok .rxRearm) : s.phase = Phase.rxRearm := by
  obtain ⟨-, ⟨-, h⟩ | ⟨-, h⟩⟩ := fetchEngine_ok h
  · exact decodePhase_rxRearm h
  · cases decodeMPhase_format h

end Sys2Proof.Machine
end

section
/-! PROOF. The receive engine's accounting and how the engine comes to it (41_receive.md R147). -/

namespace Sys2Proof.Machine

theorem exec_rxAcct (s : State) : exec .rxAcct s = .next (
    if s.rxRemaining - s.rxLen.setWidth 32 = 0
    then { s with rxOffset := s.rxOffset + s.rxLen.setWidth 32, rxRemaining := s.rxRemaining - s.rxLen.setWidth 32,
                  phase := Phase.idle, busy := false }
    else { s with rxOffset := s.rxOffset + s.rxLen.setWidth 32, rxRemaining := s.rxRemaining - s.rxLen.setWidth 32,
                  phase := Phase.rxPoll }) :=
  (apply_ite Host.Outcome.next _ _ _).symm

theorem exec_rxAcct_zero {s : State} (hl : s.rxLen = 0) (hr : s.rxRemaining ≠ 0) :
    exec .rxAcct s = .next { s with phase := Phase.rxPoll } := by
  have hleft : s.rxRemaining - s.rxLen.setWidth 32 ≠ 0 := by simpa [hl] using hr
  rw [exec_rxAcct, if_neg hleft]
  simp [hl]

/-- If `t` is about to account for a frame, then `s` was, or was about to re-arm, and had the same frame length and remaining
count. -/
def AcctFrom (s t : State) : Prop :=
  t.phase = Phase.rxAcct →
    (s.phase = Phase.rxRearm ∨ s.phase = Phase.rxAcct) ∧ t.rxLen = s.rxLen ∧ t.rxRemaining = s.rxRemaining

section AcctFrom

variable {s t : State}

theorem AcctFrom.of_phase_ne (h : t.phase ≠ Phase.rxAcct) : AcctFrom s t := fun hp => absurd hp h

theorem AcctFrom.of_unchanged (hp : t.phase = s.phase) (hl : t.rxLen = s.rxLen) (hr : t.rxRemaining = s.rxRemaining) :
    AcctFrom s t := fun ht => ⟨.inr (hp ▸ ht), hl, hr⟩

theorem acctFrom_raise (c : FaultCode) (s : State) : AcctFrom s (raise c s) := .of_phase_ne (by simp)

theorem acctFrom_of_attempt {r : Except FaultCode State} (hr : ∀ u, r = .ok u → AcctFrom s u)
    (h : attempt r s = .next t) : AcctFrom s t := by
  obtain hok | ⟨c, -, rfl⟩ := attempt_cases h
  · exact hr t hok
  · exact acctFrom_raise c s

theorem acctFrom_of_accept {r : Except FaultCode State} (hr : ∀ u, r = .ok u → AcctFrom s u)
    (h : accept r s = .next t) : AcctFrom s t := by
  obtain ⟨-, rfl⟩ | ⟨-, -, rfl⟩ | ⟨-, -, hok | ⟨c, -, rfl⟩⟩ := accept_cases h
  · exact .of_unchanged rfl rfl rfl
  · exact acctFrom_raise _ s
  · exact hr t hok
  · exact acctFrom_raise c s

theorem acctFrom_of_takeInit (h : takeInit s = .ok t) : AcctFrom s t := by
  unfold takeInit at h
  split_ifs at h
  cases h
  exact .of_unchanged rfl rfl rfl

theorem acctFrom_of_takeReceive {n : Size} {b : Handle} (h : takeReceive n b s = .ok t) : AcctFrom s t := by
  unfold takeReceive at h
  split_ifs at h <;> cases h <;> exact .of_phase_ne (by simp)

theorem acctFrom_of_takeTransmit {n : Size} {b : Handle} (h : takeTransmit n b s = .ok t) : AcctFrom s t := by
  unfold takeTransmit at h
  split_ifs at h <;> cases h <;> exact .of_phase_ne (by simp)

/-- The end of a run leads from RX_COPY to RX_REARM, and otherwise leaves the phase. -/
theorem acctFrom_endRun (s : State) : AcctFrom s (endRun s) := by
  by_cases hp : s.phase = Phase.rxCopy
  · exact .of_phase_ne (by simp [hp])
  · exact .of_unchanged (by simp [hp]) rfl rfl

theorem acctFrom_marshalStart (b : Handle) (off : Size) (n : BitVec 4) (s : State) :
    AcctFrom s (marshalStart b off n s) := by
  by_cases hn : n = 0
  · rw [hn, marshalStart_zero]
    exact acctFrom_endRun { s with mDst := b, mOff := off, mN := 0, mK := 0 }
  · rw [marshalStart_pos b off s hn]
    exact .of_unchanged rfl rfl rfl

theorem acctFrom_of_takeMarshal {n : Size} {b : Handle} (h : takeMarshal n b s = .ok t) : AcctFrom s t := by
  unfold takeMarshal at h
  split_ifs at h
  cases h
  exact acctFrom_marshalStart b 0 (n.setWidth 4) { s with busy := true }

theorem acctFrom_emitNext (s : State) : AcctFrom s (emitNext s) := by
  unfold emitNext
  split
  · exact .of_unchanged rfl rfl rfl
  · exact acctFrom_endRun { s with mK := s.mK + 1 }

theorem acctFrom_of_submitThen {d : TxDesc} {after : State → State} (ha : ∀ u : State, AcctFrom u (after u))
    (h : submitThen d after s = .next t) : AcctFrom s t := by
  obtain ⟨-, -, -, rfl⟩ | ⟨-, rfl⟩ | ⟨-, -, rfl⟩ := submitThen_cases h
  · exact ha { s with txmb := _ }
  · exact acctFrom_raise _ s
  · exact acctFrom_raise _ s

theorem acctFrom_of_exec_mEmit (h : exec .mEmit s = .next t) : AcctFrom s t := by
  refine acctFrom_of_attempt (fun u hu => ?_) h
  cases he : emitBytes s with
  | error c => rw [he] at hu; cases hu
  | ok v =>
    obtain ⟨-, -, rfl⟩ := emitBytes_ok he
    rw [he] at hu
    cases hu
    exact acctFrom_emitNext { s with mem := _ }

theorem acctFrom_of_exec_rxPoll (h : exec .rxPoll s = .next t) : AcctFrom s t := by
  rw [exec_rxPoll] at h
  cases h
  refine .of_phase_ne ?_
  split <;> simp

theorem acctFrom_of_execRxLen (h : execRxLen s = .next t) : AcctFrom s t := by
  unfold execRxLen at h
  split_ifs at h <;> cases h
  · exact acctFrom_raise _ s
  · exact acctFrom_raise _ s
  · exact .of_phase_ne (by simp)

theorem acctFrom_of_exec_rxAcct (h : exec .rxAcct s = .next t) : AcctFrom s t := by
  rw [exec_rxAcct] at h
  cases h
  refine .of_phase_ne ?_
  split <;> simp

theorem acctFrom_of_execTxWait (h : execTxWait s = .next t) : AcctFrom s t := by
  unfold execTxWait at h
  split_ifs at h <;> cases h <;> exact .of_phase_ne (by simp)

theorem acctFrom_of_execTxAdvance (h : execTxAdvance s = .next t) : AcctFrom s t := by
  unfold execTxAdvance at h
  dsimp only at h
  split_ifs at h <;> cases h <;> exact .of_phase_ne (by simp)

theorem acctFrom_of_execMFetch (h : execMFetch s = .next t) : AcctFrom s t := by
  unfold execMFetch at h
  split_ifs at h
  cases h
  exact .of_unchanged rfl rfl rfl

/-- Only `RX_REARM` leads to the accounting from another phase. -/
theorem acctFrom_of_exec {i : Instr} (hi : i = .rxRearm → s.phase = Phase.rxRearm) (h : exec i s = .next t) :
    AcctFrom s t := by
  cases i with
  | init => exact acctFrom_of_accept (fun _ => acctFrom_of_takeInit) h
  | receive size dst => exact acctFrom_of_accept (fun _ => acctFrom_of_takeReceive) h
  | transmit size src => exact acctFrom_of_accept (fun _ => acctFrom_of_takeTransmit) h
  | marshal n dst => exact acctFrom_of_accept (fun _ => acctFrom_of_takeMarshal) h
  | rxPoll => exact acctFrom_of_exec_rxPoll h
  | rxLen => exact acctFrom_of_execRxLen h
  | rxCopy => cases h; exact acctFrom_marshalStart _ _ _ s
  | rxRearm => cases h; exact fun _ => ⟨.inl (hi rfl), rfl, rfl⟩
  | rxAcct => exact acctFrom_of_exec_rxAcct h
  | txWait => exact acctFrom_of_execTxWait h
  | txSubmit => exact acctFrom_of_submitThen (fun _ => .of_phase_ne (by simp)) h
  | txAdvance => exact acctFrom_of_execTxAdvance h
  | rxReq | txDelay | txChunk => cases h; exact .of_phase_ne (by simp)
  | mFetch => exact acctFrom_of_execMFetch h
  | mEmit => exact acctFrom_of_exec_mEmit h
  | mbTxSubmit d => exact acctFrom_of_submitThen (fun _ => .of_unchanged rfl rfl rfl) h
  | mbRxNewdat | mbRxRequest | mbRxLen | mbRxData | mbRxRearm | mbTxReady | delay | mbInit =>
    cases h
    exact .of_unchanged rfl rfl rfl

theorem acctFrom_of_rejected {r : Reject} (h : rejected r s = .next t) : AcctFrom s t := by
  obtain rfl | ⟨c, -, hport⟩ := rejected_cases h
  · exact .of_unchanged rfl rfl rfl
  · exact acctFrom_of_accept (fun _ hok => by cases hok) hport

theorem acctFrom_of_runFetched {f : Except Reject Instr} (hf : f = .ok .rxRearm → s.phase = Phase.rxRearm)
    (h : runFetched f s = .next t) : AcctFrom s t := by
  cases f with
  | ok i => exact acctFrom_of_exec (fun hi => hf (by rw [hi])) h
  | error r => exact acctFrom_of_rejected h

theorem acctFrom_rxDeliver (s : State) : AcctFrom s (rxDeliver s) := by
  obtain ⟨h, -⟩ | ⟨f, rest, -, -, -, ⟨-, h⟩ | ⟨-, h⟩⟩ := rxDeliver_cases s <;> rw [h] <;>
    exact .of_unchanged rfl rfl rfl

theorem acctFrom_txComplete (s : State) : AcctFrom s (txComplete s) := by
  obtain ⟨-, h⟩ | ⟨-, h⟩ := txComplete_cases s <;> rw [h] <;> exact .of_unchanged rfl rfl rfl

theorem acctFrom_peerSend (f : Frame) (s : State) : AcctFrom s (peerSend f s) := by
  obtain ⟨-, h⟩ | ⟨-, h⟩ := peerSend_cases f s <;> rw [h] <;> exact .of_unchanged rfl rfl rfl

theorem acctFrom_lend (b : Handle) (bytes : List Byte) (s : State) : AcctFrom s (lend b bytes s) := by
  obtain h | ⟨-, -, h⟩ := lend_cases b bytes s <;> rw [h] <;> exact .of_unchanged rfl rfl rfl

/-- Taking the move off the schedule changes nothing that `AcctFrom` speaks of, so each agent's move is looked at from `popMove s`. -/
theorem acctFrom_of_step (h : step s = .next t) : AcctFrom s t := by
  suffices hpop : AcctFrom (popMove s) t from hpop
  obtain ⟨-, h⟩ | ⟨c, -, h⟩ | ⟨sel, k, d, -, ⟨-, rfl⟩ | ⟨-, h⟩⟩ | ⟨-, rfl⟩ | ⟨-, rfl⟩ | ⟨f, -, rfl⟩ | ⟨b, bytes, -, rfl⟩ |
    ⟨-, rfl⟩ := step_cases h
  · exact acctFrom_of_runFetched fetchEngine_rxRearm h
  · exact acctFrom_of_runFetched (fun hf => nomatch decodeCmd_format hf) h
  · exact .of_unchanged rfl rfl rfl
  · exact acctFrom_of_runFetched (fun hf => nomatch decodePrim_format hf) h
  · exact acctFrom_rxDeliver _
  · exact acctFrom_txComplete _
  · exact acctFrom_peerSend f _
  · exact acctFrom_lend b bytes _
  · exact .of_phase_ne (by simp [State.reset])

end AcctFrom

/-- The invariant bounds the length already before the step, which leaves length and remaining count as they are. -/
theorem rxLen_le_rxRemaining_of_step {s t : State} (hi : s.Inv) (h : step s = .next t) (ht : t.phase = Phase.rxAcct) :
    t.rxLen.toNat ≤ t.rxRemaining.toNat := by
  obtain ⟨hp, hl, hr⟩ := acctFrom_of_step h ht
  have hdrain : s.phase ∈ [Phase.rxCopy, Phase.rxRearm, Phase.rxAcct] := by
    rcases hp with hp | hp <;> simp [hp]
  rw [hl, hr]
  exact (hi.rx_len hdrain).2

/-- Settles O20: the accounting is `exec_rxAcct`, and it cannot pass zero since only the re-arm leads to it. -/
theorem rxAcctClosesTheLoop : Obligations.RxAcctClosesTheLoop :=
  ⟨rfl, exec_rxAcct, fun _ _ => rxLen_le_rxRemaining_of_step, fun _ => exec_rxAcct_zero⟩

end Sys2Proof.Machine
end

section
/-! PROOF. The transmit engine's wait for the mailbox (42_transmit.md R172). -/

namespace Sys2Proof.Machine

theorem exec_txWait_first {s : State} (hf : s.txFirst = true) :
    exec .txWait s = .next { s with txFirst := false, phase := Phase.txDelay } := if_pos hf

theorem mbTxReady_eq_not_pending (s : State) : mbTxReady s = !s.txmb.pending := rfl

theorem exec_txWait_later {s : State} (hf : s.txFirst = false) : exec .txWait s =
    if mbTxReady s then .next { s with phase := Phase.txDelay } else .next { s with phase := Phase.txWait } :=
  if_neg (by simp [hf])

theorem exec_txWait_ready {s : State} (hf : s.txFirst = false) (hp : s.txmb.pending = false) :
    exec .txWait s = .next { s with phase := Phase.txDelay } := by
  rw [exec_txWait_later hf, if_pos (by simp [mbTxReady_eq_not_pending, hp])]

theorem exec_txWait_pending {s : State} (hf : s.txFirst = false) (hp : s.txmb.pending = true) :
    exec .txWait s = .next { s with phase := Phase.txWait } := by
  rw [exec_txWait_later hf, if_neg (by simp [mbTxReady_eq_not_pending, hp])]

/-- While no agent moves, the wait leads back to the very same state. -/
theorem step_waits {s : State} (hw : s.phase = Phase.txWait) (hm : s.mPhase = MPhase.idle) (hf : s.txFirst = false)
    (hp : s.txmb.pending = true) (hs : s.schedule = []) : step s = .next s := by
  have hfetch : fetchEngine s = .ok .txWait := by
    rw [fetchEngine_of_mIdle (by simp [hw]) hm, hw]
    rfl
  calc step s = exec .txWait s := by rw [step_of_schedule_nil hs, hfetch]; rfl
    _ = .next s := by rw [exec_txWait_pending hf hp, ← hw]

theorem run_of_step_self {s : State} (h : step s = .next s) (k : Nat) : Host.Core.run core k s = .next s := by
  induction k with
  | zero => rfl
  | succ k ih => rw [run_succ_of_step k h, ih]

/-- Settles O21: the step by the flag and then by the mailbox, and the wait as a fixed point of the step, so of every run. -/
theorem txWaitBypassesOnce : Obligations.TxWaitBypassesOnce :=
  ⟨rfl, fun _ => exec_txWait_first, fun _ => exec_txWait_ready, fun _ => exec_txWait_pending,
    fun _ k hw hm hf hp hs => run_of_step_self (step_waits hw hm hf hp hs) k⟩

end Sys2Proof.Machine
end

section
/-! PROOF. The mailbox-read request latches one frame (43_mailbox_primitives.md R202). -/

namespace Sys2Proof.Machine

/-- A register is its two halves, so each latched register is known from its mailbox bytes. -/
theorem Regs4.toNat_get_ofBytes (b : Bytes8) (k : BitVec 2) :
    ((Regs4.ofBytes b).get k).toNat = 256 * (b.get (2 * k.toNat + 1)).toNat + (b.get (2 * k.toNat)).toNat := by
  rw [← Regs4.hiByte_ofBytes, ← Regs4.loByte_ofBytes, hiByte_toNat, loByte_toNat]
  exact (Nat.div_add_mod _ 256).symm

theorem exec_mbRxRequest (s : State) : exec .mbRxRequest s = .next { s with win := (mbRxRequest s).win } := rfl

theorem exec_rxReq (s : State) :
    exec .rxReq s = .next { s with win := (mbRxRequest s).win, phase := Phase.rxLen } := rfl

/-- The engine is at `RX_REQ` only while a frame is held, which the invariant keeps for all of the drain up to the re-arm. -/
theorem State.Inv.newdat_of_rxReq {s : State} (hi : s.Inv) (hp : s.phase = Phase.rxReq) : s.rxmb.newdat = true :=
  hi.rx_held (by simp [hp])

/-- Settles O14: both operations write the same window, whose registers are the mailbox's byte pairs, and the flag is the
invariant's. -/
theorem requestLatchesOneFrame : Obligations.RequestLatchesOneFrame :=
  ⟨fun _ _ => rfl,
    fun s => ⟨(mbRxRequest s).win, Regs4.toNat_get_ofBytes s.rxmb.data, rfl, rfl, exec_mbRxRequest s, exec_rxReq s⟩,
    fun _ => State.Inv.newdat_of_rxReq⟩

end Sys2Proof.Machine
end

section
/-! PROOF. The decoders inverted: which word names which operation (30_encoding.md R101, R104 to R106). -/

namespace Sys2Proof.Machine

theorem decodeCmd_ok {c : BitVec 8} {n : Size} {b : Handle} {i : Instr} (h : decodeCmd c n b = .ok i) :
    (c = 1#8 ∧ i = .init) ∨ (c = 2#8 ∧ i = .receive n b) ∨ (c = 3#8 ∧ i = .transmit n b) ∨
    (c = 4#8 ∧ i = .marshal n b) := by
  unfold decodeCmd at h
  split at h <;> cases h <;> simp [← BitVec.toNat_inj, *]

theorem decodePhase_ok {p : BitVec 4} {i : Instr} (h : decodePhase p = .ok i) :
    (p = Phase.rxPoll ∧ i = .rxPoll) ∨ (p = Phase.rxReq ∧ i = .rxReq) ∨ (p = Phase.rxLen ∧ i = .rxLen) ∨
    (p = Phase.rxCopy ∧ i = .rxCopy) ∨ (p = Phase.rxRearm ∧ i = .rxRearm) ∨ (p = Phase.rxAcct ∧ i = .rxAcct) ∨
    (p = Phase.txWait ∧ i = .txWait) ∨ (p = Phase.txDelay ∧ i = .txDelay) ∨ (p = Phase.txChunk ∧ i = .txChunk) ∨
    (p = Phase.txSubmit ∧ i = .txSubmit) ∨ (p = Phase.txAdvance ∧ i = .txAdvance) := by
  unfold decodePhase at h
  split at h <;> cases h <;> simp [← BitVec.toNat_inj, *]

theorem decodeMPhase_ok {c : BitVec 2} {i : Instr} (h : decodeMPhase c = .ok i) :
    (c = MPhase.fetch ∧ i = .mFetch) ∨ (c = MPhase.emit ∧ i = .mEmit) := by
  unfold decodeMPhase at h
  split at h <;> cases h <;> simp [← BitVec.toNat_inj, *]

theorem decodePrim_ok {c : BitVec 4} {k : BitVec 2} {d : TxDesc} {i : Instr} (h : decodePrim c k d = .ok i) :
    ((c = 0#4 ∧ i = .mbRxNewdat) ∨ (c = 1#4 ∧ i = .mbRxRequest) ∨ (c = 2#4 ∧ i = .mbRxLen) ∨
    (c = 3#4 ∧ i = .mbRxData k) ∨ (c = 4#4 ∧ i = .mbRxRearm) ∨ (c = 5#4 ∧ i = .mbTxReady) ∨
    (c = 6#4 ∧ i = .mbTxSubmit d) ∨ (c = 7#4 ∧ i = .delay) ∨ (c = 8#4 ∧ i = .mbInit)) ∧ i.wf = true := by
  unfold decodePrim at h
  split at h
  case h_7 => split at h <;> cases h; simp [← BitVec.toNat_inj, *, Instr.wf]
  all_goals cases h <;> simp [← BitVec.toNat_inj, *, Instr.wf]

/-- A phase code that names no operation and yet lets the engine's step answer is that of IDLE or FAULTED. -/
theorem eq_of_rejected_decodePhase {s t : State} {r : Reject} (hd : decodePhase s.phase = .error r)
    (h : rejected r s = .next t) : t = s ∧ (s.phase = Phase.idle ∨ s.phase = Phase.faulted) := by
  unfold decodePhase at hd
  split at hd <;> cases hd <;> cases h
  · exact ⟨rfl, .inl (BitVec.eq_of_toNat_eq ‹_›)⟩
  · exact ⟨rfl, .inr (BitVec.eq_of_toNat_eq ‹_›)⟩

theorem eq_idle_of_rejected_decodeMPhase {s t : State} {c : BitVec 2} {r : Reject} (hd : decodeMPhase c = .error r)
    (h : rejected r s = .next t) : c = MPhase.idle := by
  unfold decodeMPhase at hd
  split at hd <;> cases hd <;> cases h
  exact BitVec.eq_of_toNat_eq ‹_›

theorem not_next_of_rejected_decodePrim {s t : State} {c : BitVec 4} {k : BitVec 2} {d : TxDesc} {r : Reject}
    (hd : decodePrim c k d = .error r) : rejected r s ≠ .next t := by
  unfold decodePrim at hd
  split at hd
  case h_7 => split at hd <;> cases hd; simp [rejected]
  all_goals cases hd <;> simp [rejected]

end Sys2Proof.Machine
end

section
/-! PROOF. Everything a step can do, with the guard of each case: the inversion of `step` that every rule of the whole machine is
proved from. -/

namespace Sys2Proof.Machine

/-- What a submit writes into the transmit mailbox (43_mailbox_primitives.md R207). -/
def submitted (d : TxDesc) (s : State) : TxMailbox :=
  { s.txmb with data := descData d s, dlc := d.count, pending := true }

/-- The moves of the machine: `Transition m s t` when the agent of move `m` may lead from `s` to `t`, the move being off the
schedule already. `transition_of_step` ties it to `step`. -/
inductive Transition : Move → State → State → Prop
  /-- The engine has nothing to do, in IDLE or FAULTED. -/
  | engineRests {s} (hp : s.phase = Phase.idle ∨ s.phase = Phase.faulted) : Transition .engine s s
  /-- Another agent's move is not enabled, or is one that changes no state. -/
  | stays {m s} (hm : m ≠ .engine) (hf : ∀ f, m = .peerSend f → f.wf = false) : Transition m s s
  /-- A model-level fault (60_exceptions.md R231). -/
  | faults {m s} (c : FaultCode)
      (he : m = .engine → s.phase = Phase.rxLen ∨ s.phase = Phase.txSubmit ∨ s.mPhase ≠ MPhase.idle) :
      Transition m s (raise c s)
  | rxPollFound {s} (hp : s.phase = Phase.rxPoll) (hm : s.mPhase = MPhase.idle) (hn : s.rxmb.newdat = true) :
      Transition .engine s { s with phase := Phase.rxReq }
  | rxPollAgain {s} (hp : s.phase = Phase.rxPoll) (hm : s.mPhase = MPhase.idle) (hn : s.rxmb.newdat = false) :
      Transition .engine s { s with rxLen := 0, phase := Phase.rxPoll }
  | rxReq {s} (hp : s.phase = Phase.rxReq) (hm : s.mPhase = MPhase.idle) :
      Transition .engine s { mbRxRequest s with phase := Phase.rxLen }
  | rxLen {s} (hp : s.phase = Phase.rxLen) (hm : s.mPhase = MPhase.idle) (h8 : s.win.len.toNat ≤ Config.frameMax)
      (hr : s.win.len.toNat ≤ s.rxRemaining.toNat) :
      Transition .engine s { s with rxLen := s.win.len, phase := Phase.rxCopy }
  | rxCopyStarts {s} (hp : s.phase = Phase.rxCopy) (hm : s.mPhase = MPhase.idle) (hl : s.rxLen ≠ 0) :
      Transition .engine s
        { s with mDst := s.rxDst, mOff := s.rxOffset, mN := s.rxLen, mK := 0, mPhase := MPhase.fetch }
  | rxCopyEmpty {s} (hp : s.phase = Phase.rxCopy) (hm : s.mPhase = MPhase.idle) (hl : s.rxLen = 0) :
      Transition .engine s
        { s with mDst := s.rxDst, mOff := s.rxOffset, mN := 0, mK := 0, mPhase := MPhase.idle, phase := Phase.rxRearm }
  | rxRearm {s} (hp : s.phase = Phase.rxRearm) (hm : s.mPhase = MPhase.idle) :
      Transition .engine s { mbRxRearm s with phase := Phase.rxAcct }
  | rxAcctDone {s} (hp : s.phase = Phase.rxAcct) (hm : s.mPhase = MPhase.idle)
      (hr : s.rxRemaining - zextSize s.rxLen = 0) :
      Transition .engine s { s with
        rxOffset := s.rxOffset + zextSize s.rxLen, rxRemaining := s.rxRemaining - zextSize s.rxLen
        phase := Phase.idle, busy := false }
  | rxAcctMore {s} (hp : s.phase = Phase.rxAcct) (hm : s.mPhase = MPhase.idle)
      (hr : s.rxRemaining - zextSize s.rxLen ≠ 0) :
      Transition .engine s { s with
        rxOffset := s.rxOffset + zextSize s.rxLen, rxRemaining := s.rxRemaining - zextSize s.rxLen
        phase := Phase.rxPoll }
  | txWaitFirst {s} (hp : s.phase = Phase.txWait) (hm : s.mPhase = MPhase.idle) (hf : s.txFirst = true) :
      Transition .engine s { s with txFirst := false, phase := Phase.txDelay }
  | txWaitReady {s} (hp : s.phase = Phase.txWait) (hm : s.mPhase = MPhase.idle) (hf : s.txFirst = false)
      (hn : s.txmb.pending = false) : Transition .engine s { s with phase := Phase.txDelay }
  | txWaitAgain {s} (hp : s.phase = Phase.txWait) (hm : s.mPhase = MPhase.idle) (hf : s.txFirst = false)
      (hn : s.txmb.pending = true) : Transition .engine s { s with phase := Phase.txWait }
  | txDelay {s} (hp : s.phase = Phase.txDelay) (hm : s.mPhase = MPhase.idle) :
      Transition .engine s { s with phase := Phase.txChunk }
  | txChunk {s} (hp : s.phase = Phase.txChunk) (hm : s.mPhase = MPhase.idle) :
      Transition .engine s { s with txChunk := chunkSize s.txRemaining, phase := Phase.txSubmit }
  | txSubmit {s} (hp : s.phase = Phase.txSubmit) (hm : s.mPhase = MPhase.idle) (hn : s.txmb.pending = false)
      (hc : s.txChunk.toNat ≤ Config.frameMax) :
      Transition .engine s { s with txmb := submitted (chunkDesc s) s, phase := Phase.txAdvance }
  | txAdvanceDone {s} (hp : s.phase = Phase.txAdvance) (hm : s.mPhase = MPhase.idle)
      (hr : s.txRemaining - zextSize s.txChunk = 0) :
      Transition .engine s { s with
        txCursor := s.txCursor + zextSize s.txChunk, txRemaining := s.txRemaining - zextSize s.txChunk
        phase := Phase.idle, busy := false }
  | txAdvanceMore {s} (hp : s.phase = Phase.txAdvance) (hm : s.mPhase = MPhase.idle)
      (hr : s.txRemaining - zextSize s.txChunk ≠ 0) :
      Transition .engine s { s with
        txCursor := s.txCursor + zextSize s.txChunk, txRemaining := s.txRemaining - zextSize s.txChunk
        phase := Phase.txWait }
  | mFetch {s} (hp : s.phase ≠ Phase.faulted) (hm : s.mPhase = MPhase.fetch) :
      Transition .engine s { s with mWord := mbRxData (s.mK.setWidth 2) s, mPhase := MPhase.emit }
  | mEmitNext {s} (hp : s.phase ≠ Phase.faulted) (hm : s.mPhase = MPhase.emit)
      (hn : 2 * (s.mK.toNat + 1) < s.mN.toNat) :
      Transition .engine s { s with mem := emittedMem s, mK := s.mK + 1, mPhase := MPhase.fetch }
  | mEmitLastRx {s} (hp : s.phase = Phase.rxCopy) (hm : s.mPhase = MPhase.emit)
      (hn : ¬ 2 * (s.mK.toNat + 1) < s.mN.toNat) :
      Transition .engine s
        { s with mem := emittedMem s, mK := s.mK + 1, mPhase := MPhase.idle, phase := Phase.rxRearm }
  | mEmitLast {s} (hp : s.phase ≠ Phase.faulted) (hc : s.phase ≠ Phase.rxCopy) (hm : s.mPhase = MPhase.emit)
      (hn : ¬ 2 * (s.mK.toNat + 1) < s.mN.toNat) :
      Transition .engine s { s with mem := emittedMem s, mK := s.mK + 1, mPhase := MPhase.idle, busy := false }
  | cmdInit {c s} (hp : s.phase ≠ Phase.faulted) (hb : s.busy = false) (hc : c.cmd = 1#8) (hi : s.inited = false) :
      Transition (.command c) s { mbInit s with inited := true }
  | cmdReceiveNone {c s} (b : Handle) (hp : s.phase ≠ Phase.faulted) (hb : s.busy = false) (hi : s.inited = true) :
      Transition (.command c) s { s with rxDst := b, rxOffset := 0, rxRemaining := 0, phase := Phase.idle }
  | cmdReceive {c s} (n : Size) (b : Handle) (hp : s.phase ≠ Phase.faulted) (hb : s.busy = false)
      (hi : s.inited = true) (hn : n ≠ 0) :
      Transition (.command c) s
        { s with rxDst := b, rxOffset := 0, rxRemaining := n, busy := true, phase := Phase.rxPoll }
  | cmdTransmitNone {c s} (b : Handle) (hp : s.phase ≠ Phase.faulted) (hb : s.busy = false) (hi : s.inited = true) :
      Transition (.command c) s
        { s with txSrc := b, txCursor := 0, txRemaining := 0, txFirst := true, phase := Phase.idle }
  | cmdTransmit {c s} (n : Size) (b : Handle) (hp : s.phase ≠ Phase.faulted) (hb : s.busy = false)
      (hi : s.inited = true) (hn : n ≠ 0) :
      Transition (.command c) s
        { s with txSrc := b, txCursor := 0, txRemaining := n, txFirst := true, busy := true, phase := Phase.txWait }
  | cmdMarshalNone {c s} (b : Handle) (hp : s.phase ≠ Phase.faulted) (hb : s.busy = false) :
      Transition (.command c) s (endRun { s with mDst := b, mOff := 0, mN := 0, mK := 0, busy := true })
  | cmdMarshal {c s} (n : BitVec 4) (b : Handle) (hp : s.phase ≠ Phase.faulted) (hb : s.busy = false) (hn : n ≠ 0)
      (h8 : n.toNat ≤ Config.frameMax) :
      Transition (.command c) s
        { s with mDst := b, mOff := 0, mN := n, mK := 0, mPhase := MPhase.fetch, busy := true }
  | reqAnswer {sel k d s} (v : BitVec 16) (hb : s.busy = false) : Transition (.request sel k d) s (answer v s)
  | reqLatch {k d s} (hb : s.busy = false) : Transition (.request 1#4 k d) s (mbRxRequest s)
  | reqRearm {k d s} (hb : s.busy = false) : Transition (.request 4#4 k d) s (mbRxRearm s)
  | reqSubmit {k d s} (hb : s.busy = false) (hn : s.txmb.pending = false) (hc : d.count.toNat ≤ Config.frameMax) :
      Transition (.request 6#4 k d) s { s with txmb := submitted d s }
  | reqConfigure {k d s} (hb : s.busy = false) : Transition (.request 8#4 k d) s (mbInit s)
  | deliver {f rest s} (hw : s.wireIn = f :: rest) (hi : s.inited = true) (hn : s.rxmb.newdat = false)
      (hm : s.rxmb.matches f.id = true) : Transition .rxDeliver s (storeFrame f { s with wireIn := rest })
  | discard {f rest s} (hw : s.wireIn = f :: rest) (hi : s.inited = true) (hn : s.rxmb.newdat = false)
      (hm : s.rxmb.matches f.id = false) : Transition .rxDeliver s { s with wireIn := rest }
  | complete {s} (hn : s.txmb.pending = true) : Transition .txComplete s
      { s with wireOut := s.wireOut ++ [s.txmb.frame], txmb := { s.txmb with pending := false } }
  | peerSends {f s} (hf : f.wf = true) : Transition (.peerSend f) s { s with wireIn := s.wireIn ++ [f] }
  | lends {b bytes s} (hb : s.busy = false) (hl : bytes.length ≤ Config.sizeRange) :
      Transition (.lend b bytes) s
        { s with caps := Cells.write 0 s.caps b bytes.length, mem := s.mem.writeAll (cellOf b 0) bytes }
  | resets {s} : Transition .reset s (externalReset s)

section Inversion

variable {s t : State}

theorem transition_of_execRxLen (hp : s.phase = Phase.rxLen) (hm : s.mPhase = MPhase.idle)
    (h : execRxLen s = .next t) : Transition .engine s t := by
  unfold execRxLen at h
  split_ifs at h with h8 hr <;> cases h
  · exact .faults _ fun _ => .inl hp
  · exact .faults _ fun _ => .inl hp
  · refine .rxLen hp hm ?_ ?_
    · simpa [BitVec.lt_def, mbRxLen] using h8
    · simpa [BitVec.lt_def, mbRxLen] using hr

theorem transition_of_execRxCopy (hp : s.phase = Phase.rxCopy) (hm : s.mPhase = MPhase.idle)
    (h : execRxCopy s = .next t) : Transition .engine s t := by
  cases h
  by_cases hl : s.rxLen = 0
  · have he := Transition.rxCopyEmpty hp hm hl
    rw [hl, marshalStart_zero]
    simpa [endRun, hp] using he
  · rw [marshalStart_pos _ _ _ hl]
    exact .rxCopyStarts hp hm hl

theorem transition_of_execRxAcct (hp : s.phase = Phase.rxAcct) (hm : s.mPhase = MPhase.idle)
    (h : execRxAcct s = .next t) : Transition .engine s t := by
  unfold execRxAcct at h
  dsimp only at h
  split_ifs at h with hr <;> cases h
  · exact .rxAcctDone hp hm hr
  · exact .rxAcctMore hp hm hr

theorem transition_of_execTxWait (hp : s.phase = Phase.txWait) (hm : s.mPhase = MPhase.idle)
    (h : execTxWait s = .next t) : Transition .engine s t := by
  unfold execTxWait at h
  split_ifs at h with hf hn <;> cases h
  · exact .txWaitFirst hp hm hf
  · exact .txWaitReady hp hm (by simpa using hf) (by simpa [mbTxReady_eq_not_pending] using hn)
  · exact .txWaitAgain hp hm (by simpa using hf) (by simpa [mbTxReady_eq_not_pending] using hn)

theorem transition_of_execTxSubmit (hp : s.phase = Phase.txSubmit) (hm : s.mPhase = MPhase.idle)
    (h : execTxSubmit s = .next t) : Transition .engine s t := by
  obtain ⟨hn, hc, -, rfl⟩ | ⟨-, rfl⟩ | ⟨-, -, rfl⟩ := submitThen_cases h
  · exact .txSubmit hp hm hn hc
  · exact .faults _ fun _ => .inr (.inl hp)
  · exact .faults _ fun _ => .inr (.inl hp)

theorem transition_of_execTxAdvance (hp : s.phase = Phase.txAdvance) (hm : s.mPhase = MPhase.idle)
    (h : execTxAdvance s = .next t) : Transition .engine s t := by
  unfold execTxAdvance at h
  dsimp only at h
  split_ifs at h with hr <;> cases h
  · exact .txAdvanceDone hp hm hr
  · exact .txAdvanceMore hp hm hr

theorem transition_of_execRxPoll (hp : s.phase = Phase.rxPoll) (hm : s.mPhase = MPhase.idle)
    (h : execRxPoll s = .next t) : Transition .engine s t := by
  unfold execRxPoll at h
  split_ifs at h with hn <;> cases h
  · exact .rxPollFound hp hm hn
  · exact .rxPollAgain hp hm (Bool.eq_false_iff.mpr hn)

theorem transition_of_execMFetch (hp : s.phase ≠ Phase.faulted) (hm : s.mPhase = MPhase.fetch)
    (h : execMFetch s = .next t) : Transition .engine s t := by
  unfold execMFetch at h
  split_ifs at h
  cases h
  exact .mFetch hp hm

theorem transition_of_emitNext (hp : s.phase ≠ Phase.faulted) (hm : s.mPhase = MPhase.emit) :
    Transition .engine s (emitNext { s with mem := emittedMem s }) := by
  rw [emitNext_eq]
  split_ifs with hn hc
  · exact .mEmitNext hp hm hn
  · exact .mEmitLastRx hc hm hn
  · exact .mEmitLast hp hc hm hn

theorem transition_of_execMEmit (hp : s.phase ≠ Phase.faulted) (hm : s.mPhase = MPhase.emit)
    (h : execMEmit s = .next t) : Transition .engine s t := by
  unfold execMEmit at h
  cases he : emitBytes s with
  | error c =>
    rw [he] at h
    cases h
    exact .faults _ fun _ => .inr (.inr (by rw [hm]; decide))
  | ok u =>
    obtain ⟨-, -, rfl⟩ := emitBytes_ok he
    rw [he] at h
    cases h
    exact transition_of_emitNext hp hm

/-- The operation that `phase` names, while no marshalling run goes on. -/
theorem transition_of_exec_phase {i : Instr} (hm : s.mPhase = MPhase.idle) (hd : decodePhase s.phase = .ok i)
    (h : exec i s = .next t) : Transition .engine s t := by
  obtain ⟨hp, rfl⟩ | ⟨hp, rfl⟩ | ⟨hp, rfl⟩ | ⟨hp, rfl⟩ | ⟨hp, rfl⟩ | ⟨hp, rfl⟩ | ⟨hp, rfl⟩ | ⟨hp, rfl⟩ | ⟨hp, rfl⟩ |
    ⟨hp, rfl⟩ | ⟨hp, rfl⟩ := decodePhase_ok hd
  · exact transition_of_execRxPoll hp hm h
  · cases h; exact .rxReq hp hm
  · exact transition_of_execRxLen hp hm h
  · exact transition_of_execRxCopy hp hm h
  · cases h; exact .rxRearm hp hm
  · exact transition_of_execRxAcct hp hm h
  · exact transition_of_execTxWait hp hm h
  · cases h; exact .txDelay hp hm
  · cases h; exact .txChunk hp hm
  · exact transition_of_execTxSubmit hp hm h
  · exact transition_of_execTxAdvance hp hm h

/-- The operation that `m_phase` names, while a marshalling run goes on. -/
theorem transition_of_exec_mPhase {i : Instr} (hp : s.phase ≠ Phase.faulted) (hd : decodeMPhase s.mPhase = .ok i)
    (h : exec i s = .next t) : Transition .engine s t := by
  obtain ⟨hm, rfl⟩ | ⟨hm, rfl⟩ := decodeMPhase_ok hd
  · exact transition_of_execMFetch hp hm h
  · exact transition_of_execMEmit hp hm h

theorem transition_of_engine (h : runFetched (fetchEngine s) s = .next t) : Transition .engine s t := by
  by_cases hp : s.phase = Phase.faulted
  · rw [fetchEngine, if_pos hp] at h
    cases h
    exact .engineRests (.inr hp)
  by_cases hm : s.mPhase = MPhase.idle
  · rw [fetchEngine_of_mIdle hp hm] at h
    cases hd : decodePhase s.phase with
    | ok i => rw [hd] at h; exact transition_of_exec_phase hm hd h
    | error r =>
      rw [hd] at h
      obtain ⟨rfl, hrest⟩ := eq_of_rejected_decodePhase hd h
      exact .engineRests hrest
  · rw [fetchEngine, if_neg hp, if_neg hm] at h
    cases hd : decodeMPhase s.mPhase with
    | ok i => rw [hd] at h; exact transition_of_exec_mPhase hp hd h
    | error r => rw [hd] at h; exact absurd (eq_idle_of_rejected_decodeMPhase hd h) hm

theorem transition_of_accept {c : Command} {r : Except FaultCode State}
    (hr : s.phase ≠ Phase.faulted → s.busy = false → ∀ u, r = .ok u → Transition (.command c) s u)
    (h : accept r s = .next t) : Transition (.command c) s t := by
  obtain ⟨-, rfl⟩ | ⟨-, -, rfl⟩ | ⟨hp, hb, hok | ⟨f, -, rfl⟩⟩ := accept_cases h
  · exact .stays (by simp) (by simp)
  · exact .faults _ (by simp)
  · exact hr hp hb t hok
  · exact .faults _ (by simp)

section Taken

variable {c : Command} (hp : s.phase ≠ Phase.faulted) (hb : s.busy = false)
include hp hb

theorem transition_of_takeInit (hc : c.cmd = 1#8) (h : takeInit s = .ok t) : Transition (.command c) s t := by
  unfold takeInit at h
  split_ifs at h with hi
  cases h
  exact .cmdInit hp hb hc (by simpa using hi)

theorem transition_of_takeReceive {n : Size} {b : Handle} (h : takeReceive n b s = .ok t) :
    Transition (.command c) s t := by
  unfold takeReceive at h
  split_ifs at h with hi hn <;> cases h
  · subst hn; exact .cmdReceiveNone b hp hb (by simpa using hi)
  · exact .cmdReceive n b hp hb (by simpa using hi) hn

theorem transition_of_takeTransmit {n : Size} {b : Handle} (h : takeTransmit n b s = .ok t) :
    Transition (.command c) s t := by
  unfold takeTransmit at h
  split_ifs at h with hi hn <;> cases h
  · subst hn; exact .cmdTransmitNone b hp hb (by simpa using hi)
  · exact .cmdTransmit n b hp hb (by simpa using hi) hn

theorem transition_of_takeMarshal {n : Size} {b : Handle} (h : takeMarshal n b s = .ok t) :
    Transition (.command c) s t := by
  unfold takeMarshal at h
  split_ifs at h with h8
  cases h
  by_cases hn : n.setWidth 4 = 0
  · rw [hn, marshalStart_zero]
    exact .cmdMarshalNone b hp hb
  · rw [marshalStart_pos _ _ _ hn]
    refine .cmdMarshal _ b hp hb hn ?_
    have hle : n.toNat ≤ 8 := by simpa [BitVec.lt_def] using h8
    simp only [BitVec.toNat_setWidth, Config.frameMax]
    omega

end Taken

theorem transition_of_command {c : Command} (h : runFetched (fetchCommand c) s = .next t) :
    Transition (.command c) s t := by
  unfold fetchCommand at h
  cases hd : decodeCmd c.cmd c.argSize c.argBuf with
  | error r =>
    rw [hd] at h
    obtain rfl | ⟨_, -, hport⟩ := rejected_cases h
    · exact .stays (by simp) (by simp)
    · exact transition_of_accept (fun _ _ _ hok => by cases hok) hport
  | ok i =>
    rw [hd] at h
    obtain ⟨hc, rfl⟩ | ⟨-, rfl⟩ | ⟨-, rfl⟩ | ⟨-, rfl⟩ := decodeCmd_ok hd
    · exact transition_of_accept (fun hp hb _ => transition_of_takeInit hp hb hc) h
    · exact transition_of_accept (fun hp hb _ => transition_of_takeReceive hp hb) h
    · exact transition_of_accept (fun hp hb _ => transition_of_takeTransmit hp hb) h
    · exact transition_of_accept (fun hp hb _ => transition_of_takeMarshal hp hb) h

theorem transition_of_execMbTxSubmit {k : BitVec 2} {d : TxDesc} (hb : s.busy = false)
    (h : execMbTxSubmit d s = .next t) : Transition (.request 6#4 k d) s t := by
  obtain ⟨hn, hc, -, rfl⟩ | ⟨-, rfl⟩ | ⟨-, -, rfl⟩ := submitThen_cases h
  · exact .reqSubmit hb hn hc
  · exact .faults _ (by simp)
  · exact .faults _ (by simp)

theorem transition_of_request {sel : BitVec 4} {k : BitVec 2} {d : TxDesc} (hb : s.busy = false)
    (h : runFetched (decodePrim sel k d) s = .next t) : Transition (.request sel k d) s t := by
  cases hd : decodePrim sel k d with
  | error r => rw [hd] at h; exact absurd h (not_next_of_rejected_decodePrim hd)
  | ok i =>
    rw [hd] at h
    obtain ⟨-, rfl⟩ | ⟨rfl, rfl⟩ | ⟨-, rfl⟩ | ⟨-, rfl⟩ | ⟨rfl, rfl⟩ | ⟨-, rfl⟩ | ⟨rfl, rfl⟩ | ⟨-, rfl⟩ | ⟨rfl, rfl⟩ := (decodePrim_ok hd).1
    · cases h; exact .reqAnswer _ hb
    · cases h; exact .reqLatch hb
    · cases h; exact .reqAnswer _ hb
    · cases h; exact .reqAnswer _ hb
    · cases h; exact .reqRearm hb
    · cases h; exact .reqAnswer _ hb
    · exact transition_of_execMbTxSubmit hb h
    · cases h; exact .stays (by simp) (by simp)
    · cases h; exact .reqConfigure hb

theorem transition_rxDeliver (s : State) : Transition .rxDeliver s (rxDeliver s) := by
  obtain ⟨h, -⟩ | ⟨f, rest, hw, hi, hn, ⟨hm, h⟩ | ⟨hm, h⟩⟩ := rxDeliver_cases s <;> rw [h]
  · exact .stays (by simp) (by simp)
  · exact .deliver hw hi hn hm
  · exact .discard hw hi hn hm

theorem transition_txComplete (s : State) : Transition .txComplete s (txComplete s) := by
  obtain ⟨-, h⟩ | ⟨hn, h⟩ := txComplete_cases s <;> rw [h]
  · exact .stays (by simp) (by simp)
  · exact .complete hn

theorem transition_peerSend (f : Frame) (s : State) : Transition (.peerSend f) s (peerSend f s) := by
  obtain ⟨hf, h⟩ | ⟨hf, h⟩ := peerSend_cases f s <;> rw [h]
  · exact .stays (by simp) (by simpa using hf)
  · exact .peerSends hf

theorem transition_lend (b : Handle) (bytes : List Byte) (s : State) :
    Transition (.lend b bytes) s (lend b bytes s) := by
  obtain h | ⟨hb, hl, h⟩ := lend_cases b bytes s <;> rw [h]
  · exact .stays (by simp) (by simp)
  · exact .lends hb hl

/-- The inversion of `step`: an arm of `step_cases` per agent, each by what that agent's move can do. -/
theorem transition_of_step (h : step s = .next t) : Transition (nextMove s) (popMove s) t := by
  obtain ⟨hm, h⟩ | ⟨c, hm, h⟩ | ⟨sel, k, d, hm, ⟨-, rfl⟩ | ⟨hb, h⟩⟩ | ⟨hm, rfl⟩ | ⟨hm, rfl⟩ | ⟨f, hm, rfl⟩ |
    ⟨b, bytes, hm, rfl⟩ | ⟨hm, rfl⟩ := step_cases h <;> rw [hm]
  · exact transition_of_engine h
  · exact transition_of_command h
  · exact .stays (by simp) (by simp)
  · exact transition_of_request hb h
  · exact transition_rxDeliver _
  · exact transition_txComplete _
  · exact transition_peerSend f _
  · exact transition_lend b bytes _
  · exact .resets

end Inversion

end Sys2Proof.Machine
end

section
/-! PROOF. The invariant by what the machine is doing: the part about data, and one mode for each thing it can be at
(10_state.md R28 to R31). -/

namespace Sys2Proof.Machine

/-- The part of the invariant that speaks of no phase. -/
structure State.DataInv (s : State) : Prop where
  mem_wf : s.mem.wf = true
  caps_wf : Cells.wf 0 s.caps = true
  fault_code : if s.fault then 1 ≤ s.faultCode.toNat ∧ s.faultCode.toNat ≤ 9 else s.faultCode = 0
  configured : s.inited = true → s.txmb.id = Config.txId ∧ s.txmb.filter = Config.txFilter ∧ s.rxmb.id = Config.rxId ∧
    s.rxmb.mask = Config.rxMask ∧ s.rxmb.filter = Config.rxFilter
  tx_dlc : s.txmb.dlc.toNat ≤ Config.frameMax
  rx_dlc : s.rxmb.dlc.toNat ≤ Config.frameMax
  win_len : s.win.len.toNat ≤ Config.frameMax
  out_wf : ∀ f ∈ s.wireOut, f.wf = true
  in_wf : ∀ f ∈ s.wireIn, f.wf = true

/-- No command runs and no fault is recorded. -/
structure State.Resting (s : State) : Prop where
  phase : s.phase = Phase.idle
  mPhase : s.mPhase = MPhase.idle
  busy : s.busy = false
  fault : s.fault = false

/-- A RECEIVE runs. -/
structure State.Receiving (s : State) : Prop where
  phase : s.phase ∈ receivePhases
  busy : s.busy = true
  inited : s.inited = true
  fault : s.fault = false
  wants : s.rxRemaining ≠ 0
  held : s.phase ∈ [Phase.rxReq, Phase.rxLen, Phase.rxCopy, Phase.rxRearm] → s.rxmb.newdat = true
  len : s.phase ∈ [Phase.rxCopy, Phase.rxRearm, Phase.rxAcct] →
    s.rxLen.toNat ≤ Config.frameMax ∧ s.rxLen.toNat ≤ s.rxRemaining.toNat
  run : s.mPhase ≠ MPhase.idle → s.phase = Phase.rxCopy ∧ s.mPhase ≠ 3#2 ∧
    2 * s.mK.toNat < s.mN.toNat ∧ s.mN.toNat ≤ Config.frameMax

/-- A TRANSMIT runs. -/
structure State.Transmitting (s : State) : Prop where
  phase : s.phase ∈ transmitPhases
  mPhase : s.mPhase = MPhase.idle
  busy : s.busy = true
  inited : s.inited = true
  fault : s.fault = false
  wants : s.txRemaining ≠ 0
  chunk : s.phase ∈ [Phase.txSubmit, Phase.txAdvance] → s.txChunk = chunkSize s.txRemaining

variable {s : State}

/-! ### What a state that meets the invariant is doing -/

theorem State.Inv.dataInv (hi : s.Inv) : s.DataInv := { hi with }

theorem State.Inv.fault_eq_false (hi : s.Inv) (hp : s.phase ≠ Phase.faulted) : s.fault = false :=
  Bool.eq_false_iff.mpr fun hf => hp (hi.fault_iff.mp hf)

theorem State.Inv.mPhase_eq_idle (hi : s.Inv) (hp : s.phase ≠ Phase.idle) (hc : s.phase ≠ Phase.rxCopy) :
    s.mPhase = MPhase.idle :=
  Classical.byContradiction fun hm => (hi.run hm).1.elim hp hc

theorem State.Inv.busy_eq_true (hi : s.Inv) (hp : s.phase ≠ Phase.idle) (hf : s.phase ≠ Phase.faulted) :
    s.busy = true :=
  Bool.not_eq_false _ |>.mp fun hb => (hi.idle_phase hb).elim hp hf

theorem State.Inv.resting (hi : s.Inv) (hp : s.phase ≠ Phase.faulted) (hb : s.busy = false) : s.Resting where
  phase := (hi.idle_phase hb).resolve_right hp
  mPhase := Classical.byContradiction fun hm => by
    obtain ⟨-, hbusy, -⟩ := hi.run hm
    simp [hb] at hbusy
  busy := hb
  fault := hi.fault_eq_false hp

/-- What a receive phase is not; the code list is finite. -/
theorem receivePhases_disjoint {p : BitVec 4} (hp : p ∈ receivePhases) :
    p ∈ legalPhases ∧ p ≠ Phase.idle ∧ p ≠ Phase.faulted ∧ p ∉ transmitPhases ∧ p ∉ [Phase.txSubmit, Phase.txAdvance] := by
  revert p
  decide

theorem transmitPhases_disjoint {p : BitVec 4} (hp : p ∈ transmitPhases) :
    p ∈ legalPhases ∧ p ≠ Phase.idle ∧ p ≠ Phase.faulted ∧ p ≠ Phase.rxCopy ∧ p ∉ receivePhases ∧
      p ∉ [Phase.rxReq, Phase.rxLen, Phase.rxCopy, Phase.rxRearm] ∧
      p ∉ [Phase.rxCopy, Phase.rxRearm, Phase.rxAcct] := by
  revert p
  decide

theorem State.Inv.receiving (hi : s.Inv) (hp : s.phase ∈ receivePhases) : s.Receiving := by
  obtain ⟨-, hidle, hfaulted, -⟩ := receivePhases_disjoint hp
  refine ⟨hp, hi.busy_eq_true hidle hfaulted, hi.engine_inited (List.mem_append_left _ hp), hi.fault_eq_false hfaulted,
    hi.rx_wants hp, hi.rx_held, hi.rx_len, fun hm => ?_⟩
  obtain ⟨hphase, -, hk, hn⟩ := hi.run hm
  exact ⟨hphase.resolve_left hidle, hi.mphase_legal, hk, hn⟩

theorem State.Inv.transmitting (hi : s.Inv) (hp : s.phase ∈ transmitPhases) : s.Transmitting := by
  obtain ⟨-, hidle, hfaulted, hcopy, -⟩ := transmitPhases_disjoint hp
  exact ⟨hp, hi.mPhase_eq_idle hidle hcopy, hi.busy_eq_true hidle hfaulted,
    hi.engine_inited (List.mem_append_right _ hp), hi.fault_eq_false hfaulted, hi.tx_wants hp, hi.tx_chunk⟩

/-! ### The invariant from the data and the mode -/

theorem State.Resting.inv (h : s.Resting) (hd : s.DataInv) : s.Inv := by
  obtain ⟨hp, hm, hb, hf⟩ := h
  exact { hd with
    phase_legal := by simp [hp]
    mphase_legal := by simp [hm]
    fault_iff := by simp [hf, hp]
    idle_phase := fun _ => .inl hp
    busy_idle := by simp [hb]
    run := by simp [hm]
    engine_inited := by simp [hp]
    rx_wants := by simp [hp]
    rx_held := by simp [hp]
    rx_len := by simp [hp]
    tx_wants := by simp [hp]
    tx_chunk := by simp [hp] }

theorem State.DataInv.inv_of_faulted (hd : s.DataInv) (hp : s.phase = Phase.faulted) (hm : s.mPhase = MPhase.idle)
    (hf : s.fault = true) : s.Inv :=
  { hd with
    phase_legal := by simp [hp]
    mphase_legal := by simp [hm]
    fault_iff := by simp [hf, hp]
    idle_phase := fun _ => .inr hp
    busy_idle := by simp [hp]
    run := by simp [hm]
    engine_inited := by simp [hp]
    rx_wants := by simp [hp]
    rx_held := by simp [hp]
    rx_len := by simp [hp]
    tx_wants := by simp [hp]
    tx_chunk := by simp [hp] }

theorem State.Receiving.inv (h : s.Receiving) (hd : s.DataInv) : s.Inv := by
  obtain ⟨hp, hb, hin, hf, hw, hheld, hlen, hrun⟩ := h
  obtain ⟨hlegal, hidle, hfaulted, htx, hchunk⟩ := receivePhases_disjoint hp
  exact { hd with
    phase_legal := hlegal
    mphase_legal := fun h3 => (hrun (by simp [h3])).2.1 h3
    fault_iff := by simp [hf, hfaulted]
    idle_phase := by simp [hb]
    busy_idle := fun _ h0 => absurd h0 hidle
    run := fun hm => ⟨.inr (hrun hm).1, hb, (hrun hm).2.2⟩
    engine_inited := fun _ => hin
    rx_wants := fun _ => hw
    rx_held := hheld
    rx_len := hlen
    tx_wants := fun h => absurd h htx
    tx_chunk := fun h => absurd h hchunk }

theorem State.Transmitting.inv (h : s.Transmitting) (hd : s.DataInv) : s.Inv := by
  obtain ⟨hp, hm, hb, hin, hf, hw, hchunk⟩ := h
  obtain ⟨hlegal, hidle, hfaulted, -, hrx, hheld, hlen⟩ := transmitPhases_disjoint hp
  exact { hd with
    phase_legal := hlegal
    mphase_legal := by simp [hm]
    fault_iff := by simp [hf, hfaulted]
    idle_phase := by simp [hb]
    busy_idle := fun _ h0 => absurd h0 hidle
    run := fun h => absurd hm h
    engine_inited := fun _ => hin
    rx_wants := fun h => absurd h hrx
    rx_held := fun h => absurd h hheld
    rx_len := fun h => absurd h hlen
    tx_wants := fun _ => hw
    tx_chunk := hchunk }

end Sys2Proof.Machine
end

section
/-! PROOF. Every transition keeps the invariant (10_state.md sections 2 to 8). -/

namespace Sys2Proof.Machine

variable {s : State}

theorem FaultCode.code_bounds (c : FaultCode) : 1 ≤ c.code.toNat ∧ c.code.toNat ≤ 9 := by
  cases c <;> decide

theorem State.Inv.raise (hi : s.Inv) (c : FaultCode) : (raise c s).Inv := by
  refine State.DataInv.inv_of_faulted { hi.dataInv with fault_code := ?_ } rfl rfl rfl
  by_cases hf : s.fault = true
  · simpa [hf] using hi.fault_code
  · simpa [hf] using c.code_bounds

/-- External reset keeps the caller's buffers; the other items are those of `State.reset` (70_reset_and_hazards.md R260). -/
theorem State.Inv.externalReset (hi : s.Inv) : (externalReset s).Inv :=
  State.Resting.inv ⟨rfl, rfl, rfl, rfl⟩
    { hi with
      fault_code := rfl
      configured := fun h => nomatch h
      tx_dlc := Nat.zero_le _
      rx_dlc := Nat.zero_le _
      win_len := Nat.zero_le _
      out_wf := by simp [State.reset]
      in_wf := by simp [State.reset] }

theorem emittedMem_wf (h : s.mem.wf = true) : (emittedMem s).wf = true := by
  unfold emittedMem
  split
  · exact Memory.wf_write _ _ _ (Memory.wf_write _ _ _ h)
  · exact Memory.wf_write _ _ _ h

/-- `m_k` counts to the next register without wrapping, since a run has at most eight bytes. -/
theorem toNat_mK_succ {k : BitVec 3} {n : BitVec 4} (hk : 2 * (k.toNat + 1) < n.toNat) (hn : n.toNat ≤ Config.frameMax) :
    (k + 1).toNat = k.toNat + 1 := by
  simp only [Config.frameMax] at hn
  bv_omega

theorem TxMailbox.frame_wf (t : TxMailbox) : t.frame.wf = true := by
  simp [Frame.wf, TxMailbox.frame]

theorem frame_toNat_length {f : Frame} (h : f.wf = true) : (BitVec.ofNat 4 f.payload.length).toNat = f.payload.length := by
  have : f.payload.length ≤ 8 := by simpa [Frame.wf] using h
  simp only [BitVec.toNat_ofNat]
  omega

theorem inv_of_transition {m : Move} {t : State} (hi : s.Inv) (h : Transition m s t) : t.Inv := by
  have hd := hi.dataInv
  cases h with
  | engineRests => exact hi
  | stays => exact hi
  | faults c => exact hi.raise c
  | rxPollFound hp hm hn =>
    have hr := hi.receiving (by simp [hp])
    exact State.Receiving.inv { hr with phase := by simp, held := fun _ => hn, len := by simp, run := by simp [hm] } { hd with }
  | rxPollAgain hp hm hn =>
    have hr := hi.receiving (by simp [hp])
    exact State.Receiving.inv { hr with phase := by simp, held := by simp, len := by simp, run := by simp [hm] } { hd with }
  | rxReq hp hm =>
    have hr := hi.receiving (by simp [hp])
    exact State.Receiving.inv
      { hr with phase := by simp, held := fun _ => hr.held (by simp [hp]), len := by simp, run := by simp [hm] }
      { hd with win_len := hi.rx_dlc }
  | rxLen hp hm h8 hle =>
    have hr := hi.receiving (by simp [hp])
    exact State.Receiving.inv
      { hr with phase := by simp, held := fun _ => hr.held (by simp [hp]), len := fun _ => ⟨h8, hle⟩, run := by simp [hm] }
      { hd with }
  | rxCopyStarts hp hm hl =>
    have hr := hi.receiving (by simp [hp])
    have hpos : s.rxLen.toNat ≠ 0 := fun h0 => hl (BitVec.eq_of_toNat_eq h0)
    exact State.Receiving.inv
      { hr with run := fun _ => ⟨hp, by simp, by simpa using Nat.pos_of_ne_zero hpos, (hr.len (by simp [hp])).1⟩ }
      { hd with }
  | rxCopyEmpty hp hm hl =>
    have hr := hi.receiving (by simp [hp])
    exact State.Receiving.inv
      { hr with
        phase := by simp, held := fun _ => hr.held (by simp [hp]), len := fun _ => hr.len (by simp [hp]), run := by simp }
      { hd with }
  | rxRearm hp hm =>
    have hr := hi.receiving (by simp [hp])
    exact State.Receiving.inv
      { hr with phase := by simp, held := by simp, len := fun _ => hr.len (by simp [hp]), run := by simp [hm] }
      { hd with }
  | rxAcctDone hp hm => exact State.Resting.inv ⟨rfl, hm, rfl, hi.fault_eq_false (by simp [hp])⟩ { hd with }
  | rxAcctMore hp hm hrem =>
    have hr := hi.receiving (by simp [hp])
    exact State.Receiving.inv
      { hr with phase := by simp, wants := hrem, held := by simp, len := by simp, run := by simp [hm] } { hd with }
  | txWaitFirst hp hm | txWaitReady hp hm | txWaitAgain hp hm | txDelay hp hm =>
    have ht := hi.transmitting (by simp [hp])
    exact State.Transmitting.inv { ht with phase := by simp, chunk := by simp } { hd with }
  | txChunk hp hm =>
    have ht := hi.transmitting (by simp [hp])
    exact State.Transmitting.inv { ht with phase := by simp, chunk := fun _ => rfl } { hd with }
  | txSubmit hp hm hn hc =>
    have ht := hi.transmitting (by simp [hp])
    exact State.Transmitting.inv { ht with phase := by simp, chunk := fun _ => ht.chunk (by simp [hp]) }
      { hd with tx_dlc := hc }
  | txAdvanceDone hp hm => exact State.Resting.inv ⟨rfl, hm, rfl, hi.fault_eq_false (by simp [hp])⟩ { hd with }
  | txAdvanceMore hp hm hrem =>
    have ht := hi.transmitting (by simp [hp])
    exact State.Transmitting.inv { ht with phase := by simp, wants := hrem, chunk := by simp } { hd with }
  | mFetch hp hm =>
    have hrun := hi.run (by simp [hm])
    exact { hi with mphase_legal := by simp, busy_idle := by simp, run := fun _ => hrun }
  | mEmitNext hp hm hn =>
    obtain ⟨hphase, hb, -, h8⟩ := hi.run (by simp [hm])
    exact { hi with
      mem_wf := emittedMem_wf hi.mem_wf
      mphase_legal := by simp
      busy_idle := by simp
      run := fun _ => ⟨hphase, hb, (congrArg (2 * ·) (toNat_mK_succ hn h8)).trans_lt hn, h8⟩ }
  | mEmitLastRx hp hm hn =>
    have hr := hi.receiving (by simp [hp])
    exact State.Receiving.inv
      { hr with
        phase := by simp, held := fun _ => hr.held (by simp [hp]), len := fun _ => hr.len (by simp [hp]), run := by simp }
      { hd with mem_wf := emittedMem_wf hi.mem_wf }
  | mEmitLast hp hc hm hn =>
    obtain ⟨hphase, -⟩ := hi.run (by simp [hm])
    exact State.Resting.inv ⟨hphase.resolve_right hc, rfl, rfl, hi.fault_eq_false hp⟩
      { hd with mem_wf := emittedMem_wf hi.mem_wf }
  | cmdInit hp hb =>
    exact State.Resting.inv { hi.resting hp hb with } { hd with configured := fun _ => ⟨rfl, rfl, rfl, rfl, rfl⟩ }
  | cmdReceiveNone b hp hb | cmdTransmitNone b hp hb =>
    exact State.Resting.inv { hi.resting hp hb with phase := rfl } { hd with }
  | cmdReceive n b hp hb hin hn =>
    have hr := hi.resting hp hb
    exact State.Receiving.inv ⟨by simp, rfl, hin, hr.fault, hn, by simp, by simp, by simp [hr.mPhase]⟩ { hd with }
  | cmdTransmit n b hp hb hin hn =>
    have hr := hi.resting hp hb
    exact State.Transmitting.inv ⟨by simp, hr.mPhase, rfl, hin, hr.fault, hn, by simp⟩ { hd with }
  | cmdMarshalNone b hp hb =>
    have hr := hi.resting hp hb
    exact State.Resting.inv ⟨by simp [hr.phase], rfl, by simp [hr.phase], hr.fault⟩ { hd with }
  | cmdMarshal n b hp hb hn h8 =>
    have hpos : n.toNat ≠ 0 := fun h0 => hn (BitVec.eq_of_toNat_eq h0)
    exact { hi with
      mphase_legal := by simp
      idle_phase := by simp
      busy_idle := by simp
      run := fun _ => ⟨.inl (hi.resting hp hb).phase, rfl, by simpa using Nat.pos_of_ne_zero hpos, h8⟩ }
  | reqAnswer => exact { hi with }
  | reqLatch => exact { hi with win_len := hi.rx_dlc }
  | reqRearm hb =>
    exact { hi with rx_held := by rcases hi.idle_phase hb with hp | hp <;> simp [hp] }
  | reqSubmit hb hn hc => exact { hi with tx_dlc := hc }
  | reqConfigure hb =>
    exact { hi with
      configured := fun _ => ⟨rfl, rfl, rfl, rfl, rfl⟩
      rx_held := by rcases hi.idle_phase hb with hp | hp <;> simp [hp] }
  | @deliver f rest _ hw hin hn hm =>
    have hf := hi.in_wf f (by simp [hw])
    exact { hi with
      rx_held := fun _ => rfl
      rx_dlc := by simpa [frame_toNat_length hf, Frame.wf] using hf
      in_wf := fun g hg => hi.in_wf g (by rw [hw]; exact List.mem_cons_of_mem _ hg) }
  | discard hw => exact { hi with in_wf := fun g hg => hi.in_wf g (by rw [hw]; exact List.mem_cons_of_mem _ hg) }
  | complete => exact { hi with out_wf := by simpa [or_imp, forall_and] using ⟨hi.out_wf, s.txmb.frame_wf⟩ }
  | peerSends hf => exact { hi with in_wf := by simpa [or_imp, forall_and] using ⟨hi.in_wf, hf⟩ }
  | lends hb hl => exact { hi with mem_wf := Memory.wf_writeAll _ _ _ hi.mem_wf, caps_wf := Cells.wf_write _ _ _ _ hi.caps_wf }
  | resets => exact hi.externalReset

/-- Taking the move off the schedule leaves everything the invariant speaks of. -/
theorem State.Inv.popMove (hi : s.Inv) : (popMove s).Inv := { hi with }

/-- Settles O42: the step is one of the transitions, and each keeps the invariant. -/
theorem stepKeepsTheInvariant : Obligations.StepKeepsTheInvariant :=
  fun _ _ hi h => inv_of_transition hi.popMove (transition_of_step h)

end Sys2Proof.Machine
end

section
/-! PROOF. A state that meets the invariant never stops the machine (60_exceptions.md section 1, 30_encoding.md section 13). -/

namespace Sys2Proof.Machine

variable {s : State}

theorem execRxLen_next (s : State) : ∃ t, execRxLen s = .next t := by
  unfold execRxLen
  split_ifs <;> exact ⟨_, rfl⟩

theorem execTxWait_next (s : State) : ∃ t, execTxWait s = .next t := by
  unfold execTxWait
  split_ifs <;> exact ⟨_, rfl⟩

theorem execTxAdvance_next (s : State) : ∃ t, execTxAdvance s = .next t := by
  unfold execTxAdvance
  dsimp only
  split_ifs <;> exact ⟨_, rfl⟩

/-- The only operations that can stop are those that may name a location that does not exist (log 11). -/
theorem exec_next {i : Instr} (hk : i = .mFetch → s.mK.toNat < Config.nreg)
    (hc : i = .txSubmit → s.txChunk.toNat ≤ Config.frameMax)
    (hd : ∀ d, i = .mbTxSubmit d → d.count.toNat ≤ Config.frameMax) : ∃ t, exec i s = .next t := by
  cases i with
  | init | receive | transmit | marshal => exact accept_next _ s
  | rxPoll => exact ⟨_, exec_rxPoll s⟩
  | rxLen => exact execRxLen_next s
  | rxAcct => exact ⟨_, exec_rxAcct s⟩
  | txWait => exact execTxWait_next s
  | txAdvance => exact execTxAdvance_next s
  | txSubmit => exact submitThen_next _ s (hc rfl)
  | mbTxSubmit d => exact submitThen_next _ s (hd d rfl)
  | mFetch => exact ⟨_, if_pos (hk rfl)⟩
  | mEmit => exact attempt_next _ s
  | rxReq | rxCopy | rxRearm | txDelay | txChunk | mbRxNewdat | mbRxRequest | mbRxLen | mbRxData | mbRxRearm
  | mbTxReady | delay | mbInit => exact ⟨_, rfl⟩

theorem State.Inv.mK_lt (hi : s.Inv) (hm : s.mPhase ≠ MPhase.idle) : s.mK.toNat < Config.nreg := by
  obtain ⟨-, -, hk, hn⟩ := hi.run hm
  simp only [Config.frameMax, Config.nreg] at *
  omega

theorem State.Inv.txChunk_le (hi : s.Inv) (hp : s.phase = Phase.txSubmit) : s.txChunk.toNat ≤ Config.frameMax := by
  rw [hi.tx_chunk (by simp [hp])]
  exact chunkSize_le _

theorem decodePhase_of_legal {p : BitVec 4} (hp : p ∈ legalPhases) (hf : p ≠ Phase.faulted) :
    decodePhase p = .error .idle ∨ ∃ i, decodePhase p = .ok i := by
  simp only [legalPhases, receivePhases, transmitPhases, List.cons_append, List.nil_append, List.mem_cons,
    List.not_mem_nil, or_false] at hp
  rcases hp with rfl | rfl | rfl | rfl | rfl | rfl | rfl | rfl | rfl | rfl | rfl | rfl | rfl
  · exact .inl rfl
  · exact absurd rfl hf
  all_goals exact .inr ⟨_, rfl⟩

theorem decodeMPhase_of_legal {p : BitVec 2} (hi : p ≠ MPhase.idle) (h3 : p ≠ 3#2) : ∃ i, decodeMPhase p = .ok i := by
  have hp : p = MPhase.fetch ∨ p = MPhase.emit := by
    simp only [MPhase.idle] at hi
    bv_omega
  rcases hp with rfl | rfl <;> exact ⟨_, rfl⟩

theorem engine_next_of_inv (hi : s.Inv) : ∃ t, runFetched (fetchEngine s) s = .next t := by
  by_cases hp : s.phase = Phase.faulted
  · exact ⟨s, by rw [fetchEngine, if_pos hp]; rfl⟩
  by_cases hm : s.mPhase = MPhase.idle
  · rw [fetchEngine_of_mIdle hp hm]
    obtain h | ⟨i, h⟩ := decodePhase_of_legal hi.phase_legal hp <;> rw [h]
    · exact ⟨s, rfl⟩
    · have hcode := decodePhase_ok h
      refine exec_next (fun he => ?_) (fun he => hi.txChunk_le ?_) (fun d he => ?_) <;> subst he
      · simp at hcode
      · simpa using hcode
      · simp at hcode
  · rw [fetchEngine, if_neg hp, if_neg hm]
    obtain ⟨i, h⟩ := decodeMPhase_of_legal hm hi.mphase_legal
    rw [h]
    have hcode := decodeMPhase_ok h
    refine exec_next (fun _ => hi.mK_lt hm) (fun he => ?_) (fun d he => ?_) <;> subst he <;> simp at hcode

theorem descCount_le_of_wf {d : TxDesc} (h : d.wf = true) : d.count.toNat ≤ Config.frameMax := by
  simp only [TxDesc.wf, Bool.and_eq_true, decide_eq_true_eq] at h
  exact h.2

theorem command_next (c : Command) (s : State) : ∃ t, runFetched (fetchCommand c) s = .next t := by
  unfold fetchCommand decodeCmd
  split <;> exact accept_next _ s

theorem request_next {sel : BitVec 4} {k : BitVec 2} {d : TxDesc} {i : Instr} (h : decodePrim sel k d = .ok i)
    (s : State) : ∃ t, runFetched (decodePrim sel k d) s = .next t := by
  rw [h]
  obtain ⟨hcode, hw⟩ := decodePrim_ok h
  refine exec_next (fun he => ?_) (fun he => ?_) (fun e he => ?_) <;> subst he
  · simp at hcode
  · simp at hcode
  · exact descCount_le_of_wf hw

theorem step_next_of_inv (hi : s.Inv) (hr : s.refusedRequest = false) : ∃ t, step s = .next t := by
  unfold State.refusedRequest at hr
  unfold step
  cases hm : nextMove s with
  | engine => exact engine_next_of_inv hi.popMove
  | command c => exact command_next c _
  | request sel k d =>
    rw [hm] at hr
    dsimp only [runMove]
    split
    · exact ⟨_, rfl⟩
    · next hb =>
      cases hd : decodePrim sel k d with
      | ok i => rw [← hd]; exact request_next hd _
      | error r => simp [hd] at hr; exact absurd hr hb
  | rxDeliver | txComplete | peerSend f | lend h bytes | reset => exact ⟨_, rfl⟩

/-- Settles O43: every agent's move answers, and the answer meets the invariant by O42. -/
theorem invariantStatesNeverStop : Obligations.InvariantStatesNeverStop := by
  intro s hi hr
  obtain ⟨t, ht⟩ := step_next_of_inv hi hr
  exact ⟨t, ht, stepKeepsTheInvariant s t hi ht⟩

end Sys2Proof.Machine
end

section
/-! PROOF. Rules of the whole machine, each by what a transition can do. -/

namespace Sys2Proof.Machine

variable {m : Move} {s t : State}

/-! ### The phase successor table (10_state.md R31) -/

theorem phase_mem_successors_of_transition (hi : s.Inv) (h : Transition .engine s t) : t.phase ∈ successors s.phase := by
  cases h with
  | engineRests hp => rcases hp with hp | hp <;> simp [successors, hp]
  | stays hm => exact absurd rfl hm
  | faults c he =>
    rcases he rfl with hp | hp | hm
    · simp [successors, hp]
    · simp [successors, hp]
    · rcases (hi.run hm).1 with hp | hp <;> simp [successors, hp]
  | mFetch _ hm | mEmitNext _ hm => rcases (hi.run (by simp [hm])).1 with hp | hp <;> simp [successors, hp]
  | mEmitLast _ hc hm => simp [successors, (hi.run (by simp [hm])).1.resolve_right hc]
  | _ => simp [successors, *]

/-- Settles O44. -/
theorem engineFollowsTheSuccessorTable : Obligations.EngineFollowsTheSuccessorTable :=
  fun s _ hi hm h => phase_mem_successors_of_transition (s := popMove s) hi.popMove (hm ▸ transition_of_step h)

/-! ### A recorded fault (60_exceptions.md R232) -/

theorem fault_of_transition (h : Transition m s t) (hf : s.fault = true) (hm : m ≠ .reset) :
    t.fault = true ∧ t.faultCode = s.faultCode := by
  cases h with
  | faults c => simp [hf]
  | resets => exact absurd rfl hm
  | _ => exact ⟨hf, rfl⟩

theorem step_engine_of_faulted (hp : s.phase = Phase.faulted) (hm : nextMove s = .engine) : step s = .next (popMove s) := by
  have hfetch : fetchEngine (popMove s) = .error .faulted := if_pos hp
  rw [step, hm, runMove, hfetch]
  rfl

theorem accept_of_faulted (hp : s.phase = Phase.faulted) (r : Except FaultCode State) : accept r s = .next s :=
  if_pos hp

theorem runFetched_command_of_faulted (hp : s.phase = Phase.faulted) (c : Command) :
    runFetched (fetchCommand c) s = .next s := by
  unfold fetchCommand decodeCmd
  split <;> exact accept_of_faulted hp _

/-- Settles O45. -/
theorem faultIsSticky : Obligations.FaultIsSticky := by
  refine ⟨fun s t hf hm h => fault_of_transition (s := popMove s) (transition_of_step h) hf hm,
    fun s hp hm => step_engine_of_faulted hp hm, fun s c hp hm => ?_⟩
  rw [step, hm]
  exact runFetched_command_of_faulted (s := popMove s) hp c

/-! ### Memory (20_memory.md R60 to R62) -/

theorem mem_of_transition (h : Transition m s t) (hl : ∀ b bytes, m ≠ .lend b bytes)
    (he : ¬ (m = .engine ∧ s.mPhase = MPhase.emit)) : t.mem = s.mem := by
  cases h with
  | mEmitNext _ hm | mEmitLastRx _ hm | mEmitLast _ _ hm => exact absurd ⟨rfl, hm⟩ he
  | lends => exact absurd rfl (hl _ _)
  | _ => rfl

theorem mem_read_of_transition (h : Transition m s t) (hl : ∀ b bytes, m ≠ .lend b bytes) {a : Nat}
    (hlo : a ≠ cellOf s.mDst (lowIndex s)) (hhi : a ≠ cellOf s.mDst (highIndex s)) : t.mem.read a = s.mem.read a := by
  cases h with
  | mEmitNext | mEmitLastRx | mEmitLast => exact emittedMem_read_other hlo fun _ => hhi
  | lends => exact absurd rfl (hl _ _)
  | _ => rfl

theorem caps_of_transition (h : Transition m s t) (hl : ∀ b bytes, m ≠ .lend b bytes) : t.caps = s.caps := by
  cases h with
  | lends => exact absurd rfl (hl _ _)
  | _ => rfl

/-- Settles O46. -/
theorem onlyEmitAndTheCallerWriteMemory : Obligations.OnlyEmitAndTheCallerWriteMemory := by
  intro s t h hl
  have htr := transition_of_step h
  exact ⟨mem_of_transition (s := popMove s) htr hl, fun _ => mem_read_of_transition (s := popMove s) htr hl,
    caps_of_transition (s := popMove s) htr hl⟩

/-! ### The latched window (20_memory.md section 7) -/

theorem win_of_transition (h : Transition m s t) (hw : t.win ≠ s.win) :
    (m = .engine ∧ s.phase = Phase.rxReq) ∨ (∃ k d, m = .request 0x1#4 k d ∧ s.busy = false) ∨ m = .reset := by
  cases h with
  | rxReq hp => exact .inl ⟨rfl, hp⟩
  | reqLatch hb => exact .inr (.inl ⟨_, _, rfl, hb⟩)
  | resets => exact .inr (.inr rfl)
  | _ => exact absurd rfl hw

/-- Settles O47. -/
theorem windowChangesOnlyAtARequest : Obligations.WindowChangesOnlyAtARequest :=
  fun s _ h hw => win_of_transition (s := popMove s) (transition_of_step h) hw

/-! ### The mailbox flags (10_state.md R32, R33) -/

theorem newdat_set_of_transition (h : Transition m s t) (hs : s.rxmb.newdat = false) (ht : t.rxmb.newdat = true) :
    m = .rxDeliver := by
  cases h with
  | deliver => rfl
  | rxRearm | reqRearm | cmdInit | reqConfigure | resets => cases ht
  | _ => exact absurd (hs.symm.trans ht) Bool.false_ne_true

theorem newdat_cleared_of_transition (h : Transition m s t) (hs : s.rxmb.newdat = true) (ht : t.rxmb.newdat = false) :
    (m = .engine ∧ s.phase = Phase.rxRearm) ∨ (∃ k d, m = .request 0x4#4 k d) ∨ (∃ k d, m = .request 0x8#4 k d) ∨
      (∃ n b, m = .command ⟨0x01#8, n, b⟩) ∨ m = .reset := by
  cases h with
  | rxRearm hp => exact .inl ⟨rfl, hp⟩
  | reqRearm => exact .inr (.inl ⟨_, _, rfl⟩)
  | reqConfigure => exact .inr (.inr (.inl ⟨_, _, rfl⟩))
  | @cmdInit c _ _ _ hc => exact .inr (.inr (.inr (.inl ⟨c.argSize, c.argBuf, by rw [← hc]⟩)))
  | resets => exact .inr (.inr (.inr (.inr rfl)))
  | deliver => cases ht
  | _ => exact absurd (ht.symm.trans hs) Bool.false_ne_true

theorem pending_set_of_transition (h : Transition m s t) (hs : s.txmb.pending = false) (ht : t.txmb.pending = true) :
    (m = .engine ∧ s.phase = Phase.txSubmit) ∨ ∃ k d, m = .request 0x6#4 k d := by
  cases h with
  | txSubmit hp => exact .inl ⟨rfl, hp⟩
  | reqSubmit => exact .inr ⟨_, _, rfl⟩
  | complete | cmdInit | reqConfigure | resets => cases ht
  | _ => exact absurd (hs.symm.trans ht) Bool.false_ne_true

theorem pending_cleared_of_transition (h : Transition m s t) (hs : s.txmb.pending = true) (ht : t.txmb.pending = false) :
    m = .txComplete ∨ (∃ k d, m = .request 0x8#4 k d) ∨ (∃ n b, m = .command ⟨0x01#8, n, b⟩) ∨ m = .reset := by
  cases h with
  | complete => exact .inl rfl
  | reqConfigure => exact .inr (.inl ⟨_, _, rfl⟩)
  | @cmdInit c _ _ _ hc => exact .inr (.inr (.inl ⟨c.argSize, c.argBuf, by rw [← hc]⟩))
  | resets => exact .inr (.inr (.inr rfl))
  | txSubmit | reqSubmit => cases ht
  | _ => exact absurd (ht.symm.trans hs) Bool.false_ne_true

/-- Settles O48. -/
theorem mailboxFlagsHaveOneSetter : Obligations.MailboxFlagsHaveOneSetter := by
  intro s t h
  have htr := transition_of_step h
  exact ⟨newdat_set_of_transition (s := popMove s) htr, newdat_cleared_of_transition (s := popMove s) htr,
    pending_set_of_transition (s := popMove s) htr, pending_cleared_of_transition (s := popMove s) htr⟩

/-! ### The configuration (70_reset_and_hazards.md R276) -/

theorem configuration_of_transition (h : Transition m s t) (hi : s.inited = true) (hr : m ≠ .reset)
    (hc : ∀ k d, m ≠ .request 0x8#4 k d) :
    t.inited = true ∧ t.bitTiming = s.bitTiming ∧ t.txmb.id = s.txmb.id ∧ t.txmb.filter = s.txmb.filter ∧
      t.rxmb.id = s.rxmb.id ∧ t.rxmb.mask = s.rxmb.mask ∧ t.rxmb.filter = s.rxmb.filter := by
  cases h with
  | cmdInit _ _ _ hn => exact absurd (hn.symm.trans hi) Bool.false_ne_true
  | reqConfigure => exact absurd rfl (hc _ _)
  | resets => exact absurd rfl hr
  | _ => exact ⟨hi, rfl, rfl, rfl, rfl, rfl, rfl⟩

/-- Settles O49. -/
theorem configurationIsFixed : Obligations.ConfigurationIsFixed :=
  fun s _ hi hr hc h => configuration_of_transition (s := popMove s) (transition_of_step h) hi hr hc

/-! ### Position plus remaining count (10_state.md R22, R25) -/

theorem sums_of_transition (h : Transition m s t) (hb : s.busy = true) (hr : m ≠ .reset) :
    t.txCursor + t.txRemaining = s.txCursor + s.txRemaining ∧
      t.rxOffset + t.rxRemaining = s.rxOffset + s.rxRemaining := by
  have hmove (a b c : Size) : a + c + (b - c) = a + b := by bv_omega
  cases h with
  | rxAcctDone | rxAcctMore => exact ⟨rfl, hmove _ _ _⟩
  | txAdvanceDone | txAdvanceMore => exact ⟨hmove _ _ _, rfl⟩
  | cmdReceiveNone _ _ hn | cmdReceive _ _ _ hn | cmdTransmitNone _ _ hn | cmdTransmit _ _ _ hn =>
    exact absurd (hn.symm.trans hb) Bool.false_ne_true
  | resets => exact absurd rfl hr
  | _ => exact ⟨rfl, rfl⟩

/-- Settles O50. -/
theorem positionPlusRemainingIsTheSize : Obligations.PositionPlusRemainingIsTheSize :=
  fun s _ hb hr h => sums_of_transition (s := popMove s) (transition_of_step h) hb hr

end Sys2Proof.Machine
end

section
/-! PROOF. Codes: the round trip, the code tables and the reserved codes (30_encoding.md sections 8, 10, 11 and 13). -/

namespace Sys2Proof

/-! ### Encoding and decoding -/

/-- The three fields of a CMD word, read back from where `encode` puts them. -/
theorem cmd_fields {c : Nat} (hc : c < 2 ^ 8) (n : Size) (b : Handle) :
    let w := c + (n.toNat * 2 ^ 8 + b * 2 ^ 40)
    BitVec.ofNat 8 w = BitVec.ofNat 8 c ∧ BitVec.ofNat 32 (w / 2 ^ 8) = n ∧ w / 2 ^ 40 = b := by
  have hn := n.isLt
  refine ⟨?_, ?_, (by omega : @Eq Nat _ b)⟩ <;> apply BitVec.eq_of_toNat_eq <;> simp only [BitVec.toNat_ofNat] <;> omega

theorem wordDesc_encode (d : TxDesc) : wordDesc (encode (.mbTxSubmit d)).2 = d := by
  obtain ⟨b, x, n⟩ := d
  have hx := x.isLt
  have hn := n.isLt
  simp only [wordDesc, encode, Instr.code, Instr.operandBits, TxDesc.mk.injEq]
  refine ⟨(by omega : @Eq Nat _ b), ?_, ?_⟩ <;> apply BitVec.eq_of_toNat_eq <;> simp only [BitVec.toNat_ofNat] <;> omega

theorem decode_cmd_word {c : Nat} (hc : c < 2 ^ 8) (n : Size) (b : Handle) :
    decode .cmd (c + (n.toNat * 2 ^ 8 + b * 2 ^ 40)) = decodeCmd (BitVec.ofNat 8 c) n b := by
  obtain ⟨h1, h2, h3⟩ := cmd_fields hc n b
  simp only [decode, h1, h2, h3]

theorem decode_mbRxData_word (k : BitVec 2) : decode .prim (3 + k.toNat * 2 ^ 4) = .ok (.mbRxData k) := by
  have hk := k.isLt
  have hsel : BitVec.ofNat 4 (3 + k.toNat * 2 ^ 4) = 3#4 := by
    apply BitVec.eq_of_toNat_eq
    simp only [BitVec.toNat_ofNat]
    omega
  have hop : BitVec.ofNat 2 ((3 + k.toNat * 2 ^ 4) / 2 ^ 4) = k := by
    apply BitVec.eq_of_toNat_eq
    simp only [BitVec.toNat_ofNat]
    omega
  simp only [decode, hsel, hop]
  rfl

theorem decode_mbTxSubmit_word {d : TxDesc} (hd : d.wf = true) :
    decode .prim (encode (.mbTxSubmit d)).2 = .ok (.mbTxSubmit d) := by
  have hsel : BitVec.ofNat 4 (encode (.mbTxSubmit d)).2 = 6#4 :=
    BitVec.eq_of_toNat_eq ((BitVec.toNat_ofNat _ _).trans (Laws.CodeField.mbTxSubmit d).2)
  rw [decode, hsel, wordDesc_encode]
  exact if_pos hd

/-- Settles O1, by the operation: without operands the word is a constant; with operands each field is read back by arithmetic. -/
theorem encodeThenDecode : Obligations.EncodeThenDecode := by
  intro i hi
  cases i with
  | receive n b => exact decode_cmd_word (c := 2) (by decide) n b
  | transmit n b => exact decode_cmd_word (c := 3) (by decide) n b
  | marshal n b => exact decode_cmd_word (c := 4) (by decide) n b
  | mbRxData k => exact decode_mbRxData_word k
  | mbTxSubmit d => exact decode_mbTxSubmit_word hi
  | init | rxPoll | rxReq | rxLen | rxCopy | rxRearm | rxAcct | txWait | txDelay | txChunk | txSubmit | txAdvance
  | mFetch | mEmit | mbRxNewdat | mbRxRequest | mbRxLen | mbRxRearm | mbTxReady | delay | mbInit => rfl

open Machine

theorem Instr.code_lt (i : Instr) : i.code < 2 ^ i.format.codeBits := by
  cases i <;> simp [Instr.code, Instr.format, Format.codeBits]

theorem mod_eq_of_ofNat_eq {n w c : Nat} (h : BitVec.ofNat n w = BitVec.ofNat n c) (hc : c < 2 ^ n) :
    w % 2 ^ n = c := by
  have hnat := congrArg BitVec.toNat h
  rwa [BitVec.toNat_ofNat, BitVec.toNat_ofNat, Nat.mod_eq_of_lt hc] at hnat

/-- Settles O2: each format's decoder, inverted, lists the codes with their operations. -/
theorem decodedWordHasTheCode : Obligations.DecodedWordHasTheCode := by
  intro f w i h
  cases f with
  | cmd =>
    obtain ⟨hc, rfl⟩ | ⟨hc, rfl⟩ | ⟨hc, rfl⟩ | ⟨hc, rfl⟩ := decodeCmd_ok h <;>
      exact ⟨rfl, mod_eq_of_ofNat_eq hc (Instr.code_lt _), rfl⟩
  | phase =>
    obtain ⟨hc, rfl⟩ | ⟨hc, rfl⟩ | ⟨hc, rfl⟩ | ⟨hc, rfl⟩ | ⟨hc, rfl⟩ | ⟨hc, rfl⟩ | ⟨hc, rfl⟩ | ⟨hc, rfl⟩ | ⟨hc, rfl⟩ |
      ⟨hc, rfl⟩ | ⟨hc, rfl⟩ := decodePhase_ok h <;>
      exact ⟨rfl, mod_eq_of_ofNat_eq hc (Instr.code_lt _), rfl⟩
  | mphase =>
    obtain ⟨hc, rfl⟩ | ⟨hc, rfl⟩ := decodeMPhase_ok h <;>
      exact ⟨rfl, mod_eq_of_ofNat_eq hc (Instr.code_lt _), rfl⟩
  | prim =>
    obtain ⟨hcode, hwf⟩ := decodePrim_ok h
    obtain ⟨hc, rfl⟩ | ⟨hc, rfl⟩ | ⟨hc, rfl⟩ | ⟨hc, rfl⟩ | ⟨hc, rfl⟩ | ⟨hc, rfl⟩ | ⟨hc, rfl⟩ | ⟨hc, rfl⟩ | ⟨hc, rfl⟩ :=
      hcode <;> exact ⟨rfl, mod_eq_of_ofNat_eq hc (Instr.code_lt _), hwf⟩

/-- Settles O3: each decoder computed on the table's word. -/
theorem tableWordsDecode : Obligations.TableWordsDecode := ⟨rfl, rfl, rfl, rfl, rfl, rfl, rfl, rfl, rfl⟩

end Sys2Proof
end

section
/-! PROOF. Reserved codes, and what a step runs (30_encoding.md sections 6, 8 and 13; log 3). -/

namespace Sys2Proof.Machine

variable {s : State}

/-! ### Which codes are reserved -/

theorem decodeCmd_eq_illegal_iff (c : BitVec 8) (n : Size) (b : Handle) :
    decodeCmd c n b = .error (.cmdIllegal c) ↔ ¬ (1 ≤ c.toNat ∧ c.toNat ≤ 4) := by
  unfold decodeCmd
  split
  case h_5 h1 h2 h3 h4 =>
    rw [imp_false] at h1 h2 h3 h4
    exact iff_of_true rfl (by omega)
  all_goals exact iff_of_false (by simp) (by simp [*])

theorem decodePhase_eq_reserved_iff (c : BitVec 4) :
    decodePhase c = .error (.reservedPhase c) ↔ c = 0x7#4 ∨ c = 0xD#4 ∨ c = 0xE#4 := by
  revert c
  decide

theorem decodeMPhase_eq_reserved_iff (c : BitVec 2) : decodeMPhase c = .error (.reservedMPhase c) ↔ c = 3#2 := by
  revert c
  decide

theorem decodePrim_reserved {c : BitVec 4} (k : BitVec 2) (d : TxDesc) (hc : 0x9#4 ≤ c) :
    decodePrim c k d = .error (.reservedPrim c) := by
  unfold decodePrim
  split
  case h_10 => rfl
  all_goals exact absurd hc (by bv_omega)

theorem decodePrim_eq_reserved_iff (c : BitVec 4) (k : BitVec 2) (d : TxDesc) :
    decodePrim c k d = .error (.reservedPrim c) ↔ 0x9#4 ≤ c := by
  refine ⟨fun h => ?_, decodePrim_reserved k d⟩
  unfold decodePrim at h
  split at h
  case h_7 => split at h <;> cases h
  case h_10 h0 h1 h2 h3 h4 h5 h6 h7 h8 =>
    rw [imp_false] at h0 h1 h2 h3 h4 h5 h6 h7 h8
    bv_omega
  all_goals cases h

theorem decodePrim_descCount {d : TxDesc} (k : BitVec 2) (hd : ¬ (1 ≤ d.count.toNat ∧ d.count.toNat ≤ 8)) :
    decodePrim 0x6#4 k d = .error (.descCount d.count) := by
  have hwf : ¬ d.wf = true := by simpa [TxDesc.wf] using hd
  exact if_neg hwf

/-! ### The step by the next move -/

theorem nextMove_of_head? {m : Move} (h : s.schedule.head? = some m) : nextMove s = m := by
  simp [nextMove, List.headD_eq_head?_getD, h]

theorem step_of_head? {m : Move} (h : s.schedule.head? = some m) : step s = runMove m (popMove s) := by
  rw [step, nextMove_of_head? h]

theorem runMove_engine_of_mIdle (hp : s.phase ≠ Phase.faulted) (hm : s.mPhase = MPhase.idle) :
    runMove .engine s = runFetched (decodePhase s.phase) s := by
  rw [runMove, fetchEngine_of_mIdle hp hm]

theorem runMove_engine_of_run (hp : s.phase ≠ Phase.faulted) (hm : s.mPhase ≠ MPhase.idle) :
    runMove .engine s = runFetched (decodeMPhase s.mPhase) s := by
  rw [runMove, fetchEngine, if_neg hp, if_neg hm]

theorem runMove_request_of_free {sel : BitVec 4} {k : BitVec 2} {d : TxDesc} (hb : s.busy = false) :
    runMove (.request sel k d) s = runFetched (decodePrim sel k d) s := by
  rw [runMove, if_neg (by simp [hb])]

theorem step_of_reserved_phase (hn : nextMove s = .engine) (hm : s.mPhase = MPhase.idle)
    (hp : s.phase = 0x7#4 ∨ s.phase = 0xD#4 ∨ s.phase = 0xE#4) :
    step s = .refused (.reserved (.reservedPhase s.phase)) := by
  have hf : s.phase ≠ Phase.faulted := by rcases hp with h | h | h <;> simp [h]
  rw [step, hn, runMove_engine_of_mIdle (s := popMove s) hf hm, popMove_phase, (decodePhase_eq_reserved_iff _).mpr hp]
  rfl

theorem step_of_reserved_mPhase (hn : nextMove s = .engine) (hp : s.phase ≠ Phase.faulted) (hm : s.mPhase = 3#2) :
    step s = .refused (.reserved (.reservedMPhase 3#2)) := by
  rw [step, hn, runMove_engine_of_run (s := popMove s) hp (by simp [hm]), popMove_mPhase, hm]
  rfl

/-- Settles O4: the decoders reject exactly these codes, and the step passes the refusal on. -/
theorem reservedCodesAreRefused : Obligations.ReservedCodesAreRefused := by
  refine ⟨decodeCmd_eq_illegal_iff, decodePhase_eq_reserved_iff, decodeMPhase_eq_reserved_iff, decodePrim_eq_reserved_iff,
    fun _ => step_of_reserved_phase, fun _ => step_of_reserved_mPhase, fun s sel k d hs hb hsel => ?_,
    fun s k d hs hb hd => ?_⟩
  · rw [step_of_head? hs, runMove_request_of_free (s := popMove s) hb, decodePrim_reserved k d hsel]
    rfl
  · rw [step_of_head? hs, runMove_request_of_free (s := popMove s) hb, decodePrim_descCount k hd]
    rfl

theorem nextMove_engine (h : s.schedule = [] ∨ s.schedule.head? = some .engine) : nextMove s = .engine := by
  obtain h | h := h
  · rw [nextMove, h]
    rfl
  · exact nextMove_of_head? h

/-- Settles O5: for each agent the step is `runMove`, and the decoder's answer is what is run. -/
theorem stepRunsTheDecodedOperation : Obligations.StepRunsTheDecodedOperation := by
  refine fun s i => ⟨fun hs hp => ⟨fun hm hd => ?_, fun hm hd => ?_⟩, fun c hs hd => ?_, fun sel k d hs hb hd => ?_,
    fun sel k d hs hb => ?_⟩
  · rw [step, nextMove_engine hs, runMove_engine_of_mIdle (s := popMove s) hp hm, popMove_phase, hd]
    rfl
  · rw [step, nextMove_engine hs, runMove_engine_of_run (s := popMove s) hp hm, popMove_mPhase, hd]
    rfl
  · rw [step_of_head? hs, runMove, fetchCommand, hd]
    rfl
  · rw [step_of_head? hs, runMove_request_of_free (s := popMove s) hb, hd]
    rfl
  · rw [step_of_head? hs]
    exact if_pos hb

theorem ne_faulted_of_decodePhase_ok {i : Instr} (h : decodePhase s.phase = .ok i) : s.phase ≠ Phase.faulted := by
  intro hp
  rw [hp] at h
  cases h

theorem ne_idle_of_decodeMPhase_ok {i : Instr} (h : decodeMPhase s.mPhase = .ok i) : s.mPhase ≠ MPhase.idle := by
  intro hm
  rw [hm] at h
  cases h

/-- What `place` puts where the next step takes it is taken, in each format (log 4). -/
theorem step_place {f : Format} {w : Nat} {i : Instr} (h : decode f w = .ok i) (s : State) :
    step (place f w s) = exec i (popMove (place f w s)) := by
  cases f with
  | cmd =>
    rw [step_of_head? (m := .command _) rfl, runMove, fetchCommand]
    exact congrArg (runFetched · _) h
  | phase =>
    have hd : decodePhase (popMove (place .phase w s)).phase = .ok i := h
    rw [step_of_head? (m := .engine) rfl, runMove_engine_of_mIdle (ne_faulted_of_decodePhase_ok hd) rfl, hd]
    rfl
  | mphase =>
    have hd : decodeMPhase (popMove (place .mphase w s)).mPhase = .ok i := h
    have hp : (popMove (place .mphase w s)).phase ≠ Phase.faulted := by
      rw [popMove_phase, place]
      by_cases hs : s.phase = Phase.faulted <;> simp [hs]
    rw [step_of_head? (m := .engine) rfl, runMove_engine_of_run hp (ne_idle_of_decodeMPhase_ok hd), hd]
    rfl
  | prim =>
    rw [step_of_head? (m := .request _ _ _) rfl, runMove_request_of_free rfl]
    exact congrArg (runFetched · _) h

/-- Settles O6: a table word is placed in the format in which it is read. -/
theorem placedWordRunsNext : Obligations.PlacedWordRunsNext := by
  intro s nbits w i h
  unfold decodeTableWord at h
  split at h
  · next j hd =>
    cases h
    exact step_place hd s
  · cases h

end Sys2Proof.Machine
end

section
/-! PROOF. The command port: the four commands and the faults it raises (30_encoding.md R101, 60_exceptions.md section 3). -/

namespace Sys2Proof.Machine

variable {s : State}

/-! ### What an accepted command does -/

theorem exec_init (hp : s.phase ≠ Phase.faulted) (hb : s.busy = false) (hi : s.inited = false) :
    exec .init s = .next { mbInit s with inited := true } := by
  have htake : takeInit s = .ok { mbInit s with inited := true } := if_neg (by simp [hi])
  exact (accept_free hp hb).trans (by rw [htake]; rfl)

theorem exec_receive (n : Size) (b : Handle) (hp : s.phase ≠ Phase.faulted) (hb : s.busy = false)
    (hi : s.inited = true) : exec (.receive n b) s = .next (if n = 0
      then { s with rxDst := b, rxOffset := 0, rxRemaining := n, phase := Phase.idle }
      else { s with rxDst := b, rxOffset := 0, rxRemaining := n, busy := true, phase := Phase.rxPoll }) := by
  refine (accept_free hp hb).trans ?_
  rw [takeReceive, if_neg (by simp [hi])]
  split_ifs <;> rfl

theorem exec_transmit (n : Size) (b : Handle) (hp : s.phase ≠ Phase.faulted) (hb : s.busy = false)
    (hi : s.inited = true) : exec (.transmit n b) s = .next (if n = 0
      then { s with txSrc := b, txCursor := 0, txRemaining := n, txFirst := true, phase := Phase.idle }
      else { s with txSrc := b, txCursor := 0, txRemaining := n, txFirst := true, busy := true,
                    phase := Phase.txWait }) := by
  refine (accept_free hp hb).trans ?_
  rw [takeTransmit, if_neg (by simp [hi])]
  split_ifs <;> rfl

theorem exec_marshal {n : Size} (b : Handle) (hp : s.phase ≠ Phase.faulted) (hb : s.busy = false) (hn : n.toNat ≤ 8) :
    exec (.marshal n b) s = .next (marshalStart b 0 (n.setWidth 4) { s with busy := true }) := by
  have htake : takeMarshal n b s = .ok (marshalStart b 0 (n.setWidth 4) { s with busy := true }) :=
    if_neg (by simpa [BitVec.lt_def] using hn)
  exact (accept_free hp hb).trans (by rw [htake]; rfl)

/-- Settles O7. -/
theorem initConfigures : Obligations.InitConfigures := fun _ hp hb hi => exec_init hp hb hi

/-- Settles O8. -/
theorem receiveStarts : Obligations.ReceiveStarts := fun n b _ hp hb hi => exec_receive n b hp hb hi

/-- Settles O9. -/
theorem transmitStarts : Obligations.TransmitStarts := fun n b _ hp hb hi => exec_transmit n b hp hb hi

theorem setWidth_eq_zero_iff {n : Size} (hn : n.toNat ≤ 8) : n.setWidth 4 = 0 ↔ n = 0 := by
  bv_omega

/-- Settles O10: the narrowed count is zero only if the count is, so the two cases are those of `marshalStart`. -/
theorem marshalStarts : Obligations.MarshalStarts := by
  intro n b s hp hb hn
  rw [exec_marshal b (by simp [hp]) hb hn]
  by_cases h0 : n = 0
  · rw [if_pos h0, (setWidth_eq_zero_iff hn).mpr h0, marshalStart_zero, endRun]
    simp [hp]
  · rw [if_neg h0, marshalStart_pos _ _ _ fun h => h0 ((setWidth_eq_zero_iff hn).mp h)]

/-! ### Faults -/

/-- Settles O11. -/
theorem raiseRecordsTheFirstFault : Obligations.RaiseRecordsTheFirstFault := ⟨fun _ _ => rfl, rfl⟩

theorem accept_of_busy (hp : s.phase ≠ Phase.faulted) (hb : s.busy = true) (r : Except FaultCode State) :
    accept r s = .next (raise .cmdWhileBusy s) := by
  rw [accept, if_neg hp, if_pos hb]

theorem accept_error (hp : s.phase ≠ Phase.faulted) (hb : s.busy = false) (f : FaultCode) :
    accept (.error f) s = .next (raise f s) := accept_free hp hb

/-- Every presented command goes through the port, an illegal one too. -/
theorem runFetched_command_of_busy (hp : s.phase ≠ Phase.faulted) (hb : s.busy = true) (c : Command) :
    runFetched (fetchCommand c) s = .next (raise .cmdWhileBusy s) := by
  unfold fetchCommand decodeCmd
  split <;> exact accept_of_busy hp hb _

theorem runFetched_command_of_illegal (hp : s.phase ≠ Phase.faulted) (hb : s.busy = false) {c : Command}
    (hc : ¬ (1 ≤ c.cmd.toNat ∧ c.cmd.toNat ≤ 4)) : runFetched (fetchCommand c) s = .next (raise .cmdIllegal s) := by
  rw [fetchCommand, (decodeCmd_eq_illegal_iff _ _ _).mpr hc]
  exact accept_error hp hb _

theorem fetchCommand_init {c : Command} (hc : c.cmd = 0x01#8) : fetchCommand c = .ok .init := by
  rw [fetchCommand, hc]
  rfl

theorem fetchCommand_receive {c : Command} (hc : c.cmd = 0x02#8) :
    fetchCommand c = .ok (.receive c.argSize c.argBuf) := by
  rw [fetchCommand, hc]
  rfl

theorem fetchCommand_transmit {c : Command} (hc : c.cmd = 0x03#8) :
    fetchCommand c = .ok (.transmit c.argSize c.argBuf) := by
  rw [fetchCommand, hc]
  rfl

theorem fetchCommand_marshal {c : Command} (hc : c.cmd = 0x04#8) :
    fetchCommand c = .ok (.marshal c.argSize c.argBuf) := by
  rw [fetchCommand, hc]
  rfl

theorem exec_init_of_inited (hp : s.phase ≠ Phase.faulted) (hb : s.busy = false) (hi : s.inited = true) :
    exec .init s = .next (raise .initTwice s) := by
  have htake : takeInit s = .error .initTwice := if_pos hi
  exact (congrArg (accept · s) htake).trans (accept_error hp hb _)

theorem exec_receive_of_not_inited (n : Size) (b : Handle) (hp : s.phase ≠ Phase.faulted) (hb : s.busy = false)
    (hi : s.inited = false) : exec (.receive n b) s = .next (raise .notInitialised s) := by
  have htake : takeReceive n b s = .error .notInitialised := if_pos (by simp [hi])
  exact (congrArg (accept · s) htake).trans (accept_error hp hb _)

theorem exec_transmit_of_not_inited (n : Size) (b : Handle) (hp : s.phase ≠ Phase.faulted) (hb : s.busy = false)
    (hi : s.inited = false) : exec (.transmit n b) s = .next (raise .notInitialised s) := by
  have htake : takeTransmit n b s = .error .notInitialised := if_pos (by simp [hi])
  exact (congrArg (accept · s) htake).trans (accept_error hp hb _)

theorem exec_marshal_of_range {n : Size} (b : Handle) (hp : s.phase ≠ Phase.faulted) (hb : s.busy = false)
    (hn : 8 < n.toNat) : exec (.marshal n b) s = .next (raise .marshalRange s) := by
  have htake : takeMarshal n b s = .error .marshalRange := if_pos (by simpa [BitVec.lt_def] using hn)
  exact (congrArg (accept · s) htake).trans (accept_error hp hb _)

/-- Settles O12: one lemma per check, in the order in which the port makes them. -/
theorem commandPortFaults : Obligations.CommandPortFaults := by
  intro s c hs p
  have hstep : step s = runFetched (fetchCommand c) p := step_of_head? hs
  rw [hstep]
  refine ⟨fun hp => runFetched_command_of_faulted (s := p) hp c, fun hp hb => runFetched_command_of_busy (s := p) hp hb c,
    fun hp hb hc => runFetched_command_of_illegal (s := p) hp hb hc, fun hp hb hc hi => ?_, fun hp hb hc hi => ?_,
    fun hp hb hc hn => ?_⟩
  · rw [fetchCommand_init hc]
    exact exec_init_of_inited (s := p) hp hb hi
  · obtain hc | hc := hc
    · rw [fetchCommand_receive hc]
      exact exec_receive_of_not_inited (s := p) _ _ hp hb hi
    · rw [fetchCommand_transmit hc]
      exact exec_transmit_of_not_inited (s := p) _ _ hp hb hi
  · rw [fetchCommand_marshal hc]
    exact exec_marshal_of_range (s := p) _ hp hb hn

end Sys2Proof.Machine
end

section
/-! PROOF. The micro-operations of the two engines, one equation per case (41_receive.md section 3, 42_transmit.md section 3). -/

namespace Sys2Proof.Machine

variable {s : State}

/-! ### The receive engine -/

/-- Settles O15: the latch, with the register bytes of `Regs4.toNat_get_ofBytes`. -/
theorem rxReqLatchesTheFrame : Obligations.RxReqLatchesTheFrame :=
  fun s => ⟨_, exec_rxReq s, Regs4.toNat_get_ofBytes s.rxmb.data, rfl, rfl, rfl⟩

theorem exec_rxLen (h8 : s.win.len.toNat ≤ 8) (hr : s.win.len.toNat ≤ s.rxRemaining.toNat) :
    exec .rxLen s = .next { s with rxLen := s.win.len, phase := Phase.rxCopy } := by
  have hlegal : ¬ 8#4 < mbRxLen s := by simpa [BitVec.lt_def, mbRxLen] using h8
  have hfits : ¬ s.rxRemaining < zextSize (mbRxLen s) := by simpa [BitVec.lt_def, mbRxLen] using hr
  exact (if_neg hlegal).trans (if_neg hfits)

theorem exec_rxLen_illegal (h8 : 8 < s.win.len.toNat) : exec .rxLen s = .next (raise .rxLengthIllegal s) :=
  if_pos (by simpa [BitVec.lt_def, mbRxLen] using h8)

theorem exec_rxLen_overrun (h8 : s.win.len.toNat ≤ 8) (hr : s.rxRemaining.toNat < s.win.len.toNat) :
    exec .rxLen s = .next (raise .rxLengthOverrun s) := by
  have hlegal : ¬ 8#4 < mbRxLen s := by simpa [BitVec.lt_def, mbRxLen] using h8
  exact (if_neg hlegal).trans (if_pos (by simpa [BitVec.lt_def, mbRxLen] using hr))

/-- Settles O16. -/
theorem rxLenTakesTheLength : Obligations.RxLenTakesTheLength := fun _ h8 hr => exec_rxLen h8 hr

/-- Settles O17. -/
theorem rxLenRejectsTheLength : Obligations.RxLenRejectsTheLength :=
  ⟨fun _ h8 => exec_rxLen_illegal h8, fun _ h8 hr => exec_rxLen_overrun h8 hr⟩

theorem exec_rxCopy_pos (hl : s.rxLen ≠ 0) : exec .rxCopy s =
    .next { s with mDst := s.rxDst, mOff := s.rxOffset, mN := s.rxLen, mK := 0, mPhase := MPhase.fetch } :=
  congrArg Host.Outcome.next (marshalStart_pos _ _ s hl)

theorem exec_rxCopy_zero (hp : s.phase = Phase.rxCopy) (hl : s.rxLen = 0) : exec .rxCopy s =
    .next { s with mDst := s.rxDst, mOff := s.rxOffset, mN := 0, mK := 0, mPhase := MPhase.idle,
                   phase := Phase.rxRearm } := by
  have hstart : marshalStart s.rxDst s.rxOffset s.rxLen s = { s with
      mDst := s.rxDst, mOff := s.rxOffset, mN := 0, mK := 0, mPhase := MPhase.idle, phase := Phase.rxRearm } := by
    rw [hl, marshalStart_zero, endRun]
    simpa [hp] using hl
  exact congrArg Host.Outcome.next hstart

/-- Settles O18: a run of some bytes starts, a run of none ends. -/
theorem rxCopyStartsTheRun : Obligations.RxCopyStartsTheRun := by
  intro s hp
  split_ifs with hl
  · exact exec_rxCopy_zero hp hl
  · exact exec_rxCopy_pos hl

/-- Settles O19. -/
theorem rxRearmReleasesTheMailbox : Obligations.RxRearmReleasesTheMailbox := fun _ => rfl

/-! ### The transmit engine -/

theorem exec_txDelay (s : State) : exec .txDelay s = .next { s with phase := Phase.txChunk } := rfl

/-- Settles O22. -/
theorem txDelayChangesOnlyThePhase : Obligations.TxDelayChangesOnlyThePhase := exec_txDelay

theorem descInRange_iff (d : TxDesc) (s : State) :
    descInRange d s = true ↔ ∀ i < d.count.toNat, (d.index + BitVec.ofNat 32 i).toNat < s.cap d.buf := by
  simp [descInRange]

theorem descInRange_eq_false {d : TxDesc}
    (h : ∃ i < d.count.toNat, s.cap d.buf ≤ (d.index + BitVec.ofNat 32 i).toNat) : descInRange d s = false := by
  obtain ⟨i, hi, hcap⟩ := h
  refine Bool.eq_false_iff.mpr fun hr => ?_
  have := (descInRange_iff d s).mp hr i hi
  omega

theorem descData_get_of_lt (d : TxDesc) (s : State) {i : Nat} (hi : i < d.count.toNat) (h8 : d.count.toNat ≤ 8) :
    (descData d s).get i = s.byteAt d.buf (d.index + BitVec.ofNat 32 i) := by
  rw [descData, Bytes8.get_ofFn _ (by omega), if_pos hi]

theorem descData_get_of_ge (d : TxDesc) (s : State) {i : Nat} (hi : d.count.toNat ≤ i) (h8 : i < 8) :
    (descData d s).get i = s.txmb.data.get i := by
  rw [descData, Bytes8.get_ofFn _ h8, if_neg (by omega)]

theorem submitThen_of_pending (d : TxDesc) (after : State → State) (hn : s.txmb.pending = true) :
    submitThen d after s = .next (raise .txSubmitWhilePending s) := by
  simp [submitThen, mbTxSubmit, hn, Except.map]

theorem submitThen_of_outOfRange {d : TxDesc} (after : State → State) (hn : s.txmb.pending = false)
    (h8 : d.count.toNat ≤ Config.frameMax) (hr : descInRange d s = false) :
    submitThen d after s = .next (raise .bufferRange s) := by
  have hnot : ¬ Config.frameMax < d.count.toNat := by omega
  simp [submitThen, mbTxSubmit, hn, hnot, hr, Except.map]

theorem submitThen_of_count {d : TxDesc} (after : State → State) (hn : s.txmb.pending = false)
    (h8 : Config.frameMax < d.count.toNat) : submitThen d after s = .fault (.mailboxRange d.count) :=
  if_pos (by simpa [hn] using h8)

theorem exec_txSubmit (hn : s.txmb.pending = false) (h8 : s.txChunk.toNat ≤ 8)
    (hr : ∀ i < s.txChunk.toNat, (s.txCursor + BitVec.ofNat 32 i).toNat < s.cap s.txSrc) :
    exec .txSubmit s = .next { s with txmb := submitted (chunkDesc s) s, phase := Phase.txAdvance } :=
  submitThen_ok _ hn h8 ((descInRange_iff (chunkDesc s) s).mpr hr)

theorem exec_mbTxSubmit {d : TxDesc} (hd : d.wf = true) (hn : s.txmb.pending = false)
    (hr : ∀ i < d.count.toNat, (d.index + BitVec.ofNat 32 i).toNat < s.cap d.buf) :
    exec (.mbTxSubmit d) s = .next { s with txmb := submitted d s } :=
  submitThen_ok _ hn (descCount_le_of_wf hd) ((descInRange_iff d s).mpr hr)

/-- Settles O24: the mailbox bytes are `descData` of the chunk's descriptor. -/
theorem txSubmitFillsTheMailbox : Obligations.TxSubmitFillsTheMailbox :=
  fun s hn h8 hr => ⟨_, exec_txSubmit hn h8 hr, fun _ hi => descData_get_of_lt (chunkDesc s) s hi h8,
    fun _ hi h => descData_get_of_ge (chunkDesc s) s hi h, rfl⟩

/-- Settles O33. -/
theorem submitPrimitiveFillsTheMailbox : Obligations.SubmitPrimitiveFillsTheMailbox :=
  fun d s hd hn hr => ⟨_, exec_mbTxSubmit hd hn hr, fun _ hi => descData_get_of_lt d s hi (descCount_le_of_wf hd),
    fun _ hi h => descData_get_of_ge d s hi h, rfl⟩

/-- Settles O25: both submits are `submitThen`, which tests the pending flag first. -/
theorem submitFaults : Obligations.SubmitFaults :=
  ⟨fun _ hn => submitThen_of_pending _ _ hn,
    fun s hn h8 hr => submitThen_of_outOfRange (d := chunkDesc s) _ hn h8 (descInRange_eq_false hr),
    fun _ _ hn => submitThen_of_pending _ _ hn,
    fun _ _ hn hd hr => submitThen_of_outOfRange _ hn (descCount_le_of_wf hd) (descInRange_eq_false hr)⟩

theorem exec_txAdvance (s : State) : exec .txAdvance s = .next (
    if s.txRemaining - zextSize s.txChunk = 0
    then { s with txCursor := s.txCursor + zextSize s.txChunk, txRemaining := s.txRemaining - zextSize s.txChunk,
                  phase := Phase.idle, busy := false }
    else { s with txCursor := s.txCursor + zextSize s.txChunk, txRemaining := s.txRemaining - zextSize s.txChunk,
                  phase := Phase.txWait }) :=
  (apply_ite Host.Outcome.next _ _ _).symm

/-- Settles O26. -/
theorem txAdvanceClosesTheLoop : Obligations.TxAdvanceClosesTheLoop := exec_txAdvance

/-! ### Register Marshalling -/

theorem exec_mFetch (hk : s.mK.toNat < 4) :
    exec .mFetch s = .next { s with mWord := s.win.d.get (s.mK.setWidth 2), mPhase := MPhase.emit } := if_pos hk

theorem Regs4.get_eq_getD (r : Regs4) {n : Nat} (k : BitVec 2) (hk : k.toNat = n) :
    r.get k = [r.d0, r.d1, r.d2, r.d3].getD n 0 := by
  subst hk
  have := k.isLt
  rcases (by omega : k.toNat = 0 ∨ k.toNat = 1 ∨ k.toNat = 2 ∨ k.toNat = 3) with h | h | h | h <;> simp [Regs4.get, h]

/-- Settles O27: below 4 the register number loses nothing when it is narrowed. -/
theorem mFetchReadsOneRegister : Obligations.MFetchReadsOneRegister := by
  intro s hk
  have hnum : (s.mK.setWidth 2).toNat = s.mK.toNat := by
    rw [BitVec.toNat_setWidth]
    omega
  rw [exec_mFetch hk, Regs4.get_eq_getD _ _ hnum]

/-- Settles O40. -/
theorem missingLocationsStop : Obligations.MissingLocationsStop :=
  ⟨fun _ hk => if_neg (Nat.not_lt.mpr hk), fun s hn h8 => submitThen_of_count (d := chunkDesc s) _ hn h8,
    fun _ _ hn h8 => submitThen_of_count _ hn h8⟩

end Sys2Proof.Machine
end

section
/-! PROOF. The primitives presented on their own, the status word and reset (43_mailbox_primitives.md, 30_encoding.md section 9,
70_reset_and_hazards.md section 1). -/

namespace Sys2Proof.Machine

/-- The answer to a reading primitive as a step's result, a function of the value read. -/
def answered (s : State) (v : BitVec 16) : Result := .next { s with primResult := v }

/-- Settles O31: a flag as a 16-bit number by its two values, a length and a register as they are. -/
theorem primitiveReadsAnswer : Obligations.PrimitiveReadsAnswer := by
  have hflag (b : Bool) : (BitVec.ofBool b).setWidth 16 = if b then 1 else 0 := by cases b <;> rfl
  refine fun s => ⟨?_, ?_, ⟨_, rfl, ?_, rfl⟩, fun k => ?_⟩
  · exact congrArg (answered s) (hflag _)
  · refine congrArg (answered s) ((hflag _).trans ?_)
    rw [mbTxReady_eq_not_pending]
    cases s.txmb.pending <;> rfl
  · have := s.win.len.isLt
    simp only [answer_primResult, mbRxLen, BitVec.toNat_setWidth]
    omega
  · exact congrArg (answered s) (Regs4.get_eq_getD _ k rfl)

/-- Settles O32. -/
theorem primitiveTriggersAct : Obligations.PrimitiveTriggersAct :=
  fun s => ⟨⟨_, exec_mbRxRequest s, Regs4.toNat_get_ofBytes s.rxmb.data, rfl, rfl, rfl⟩, rfl, rfl, rfl⟩

theorem status_eq_concat (s : State) :
    s.status = (((s.faultCode.concat false).concat s.fault).concat s.inited).concat s.busy := rfl

/-- Settles O52: the word is `fault_code` with four bits appended. -/
theorem statusWordBits : Obligations.StatusWordBits := by
  intro s
  have hbit (b : Bool) (n : Nat) : (if b then n else 0) = n * b.toNat := by cases b <;> simp
  rw [status_eq_concat]
  simp only [BitVec.toNat_concat, hbit, Bool.toNat_false]
  omega

/-- Settles O39. -/
theorem resetLeavesTheStatedValues : Obligations.ResetLeavesTheStatedValues :=
  ⟨⟨rfl, rfl, rfl, rfl, rfl, rfl, rfl, rfl⟩, fun _ hs =>
    ⟨_, step_of_head? hs, rfl, rfl, rfl, rfl, rfl, rfl, rfl, rfl, fun _ _ => rfl, fun _ => rfl, rfl⟩⟩

/-- Settles O41: the state after reset rests, and each of its data is zero or empty. -/
theorem resetMeetsTheInvariant : Obligations.ResetMeetsTheInvariant :=
  State.Resting.inv ⟨rfl, rfl, rfl, rfl⟩
    { mem_wf := rfl
      caps_wf := rfl
      fault_code := rfl
      configured := fun h => nomatch h
      tx_dlc := Nat.zero_le _
      rx_dlc := Nat.zero_le _
      win_len := Nat.zero_le _
      out_wf := by simp [State.reset]
      in_wf := by simp [State.reset] }

end Sys2Proof.Machine
end

section
/-! PROOF. The moves of the controller, the peer and the caller (43_mailbox_primitives.md sections 5 and 6). -/

namespace Sys2Proof.Machine

variable {s : State}

/-! ### The controller and the peer -/

theorem matches_iff (r : RxMailbox) (id : Ident) : r.matches id = true ↔ id &&& r.mask = r.id &&& r.mask := by
  simp [RxMailbox.matches]

section Enabled

variable {f : Frame} {rest : List Frame} (hw : s.wireIn = f :: rest) (hi : s.inited = true) (hn : s.rxmb.newdat = false)
include hw hi hn

theorem rxDeliver_stores (hm : s.rxmb.matches f.id = true) : rxDeliver s = storeFrame f { s with wireIn := rest } := by
  simp [rxDeliver, hw, hi, hn, hm]

theorem rxDeliver_discards (hm : s.rxmb.matches f.id = false) : rxDeliver s = { s with wireIn := rest } := by
  simp [rxDeliver, hw, hi, hn, hm]

end Enabled

theorem rxDeliver_of_disabled (h : s.inited = false ∨ s.wireIn = [] ∨ s.rxmb.newdat = true) : rxDeliver s = s := by
  obtain ⟨heq, -⟩ | ⟨f, rest, hw, hi, hn, -⟩ := rxDeliver_cases s
  · exact heq
  · rcases h with h | h | h
    · exact absurd (h.symm.trans hi) Bool.false_ne_true
    · exact absurd (h.symm.trans hw) (List.cons_ne_nil f rest).symm
    · exact absurd (hn.symm.trans h) Bool.false_ne_true

theorem deliveredData_get_of_lt {f : Frame} (handle n : Nat) {i : Nat} (hi : i < f.payload.length) (h8 : i < 8) :
    (deliveredData f handle n).get i = f.payload[i] := by
  rw [deliveredData, Bytes8.get_ofFn _ h8, List.getD_eq_getElem _ _ hi]

theorem deliveredData_get_of_ge {f : Frame} (handle n : Nat) {i : Nat} (hi : f.payload.length ≤ i) (h8 : i < 8) :
    (deliveredData f handle n).get i = Config.draw handle (n + i) := by
  rw [deliveredData, Bytes8.get_ofFn _ h8, List.getD_eq_default _ _ hi]

/-- Settles O34: an enabled delivery takes the frame off the wire, and the filter alone decides whether it is stored. -/
theorem deliverStoresAnAcceptedFrame : Obligations.DeliverStoresAnAcceptedFrame := by
  intro s f rest hs hi hn hw h8
  have hstep : step s = .next (rxDeliver (popMove s)) := step_of_head? hs
  refine ⟨fun hm => ?_, fun hm => ?_⟩
  · have hfilter : s.rxmb.matches f.id = false := Bool.eq_false_iff.mpr fun h => hm ((matches_iff _ _).mp h)
    rw [hstep, rxDeliver_discards (s := popMove s) hw hi hn hfilter]
    rfl
  · rw [hstep, rxDeliver_stores (s := popMove s) hw hi hn ((matches_iff _ _).mpr hm)]
    exact ⟨_, rfl, fun i h => deliveredData_get_of_lt _ _ h (by omega), fun i h hi8 => deliveredData_get_of_ge _ _ h hi8,
      frame_toNat_length (by simpa [Frame.wf] using h8), rfl⟩

/-- Settles O35. -/
theorem deliverWaits : Obligations.DeliverWaits := by
  intro s hs h
  have hstep : step s = .next (rxDeliver (popMove s)) := step_of_head? hs
  rw [hstep, rxDeliver_of_disabled (s := popMove s) h]
  rfl

/-- Settles O36. -/
theorem completeSendsThePendingFrame : Obligations.CompleteSendsThePendingFrame := by
  intro s hs
  have hstep : step s = .next (txComplete (popMove s)) := step_of_head? hs
  refine ⟨fun hn => ?_, fun hn => ?_⟩ <;> rw [hstep, txComplete]
  · exact congrArg Host.Outcome.next (if_pos hn)
  · exact congrArg Host.Outcome.next (if_neg (by simpa using hn))

/-- Settles O37. -/
theorem peerSendAppends : Obligations.PeerSendAppends := by
  intro s f hs h8
  have hstep : step s = .next (peerSend f (popMove s)) := step_of_head? hs
  rw [hstep, peerSend, if_pos (by simpa [Frame.wf] using h8)]
  rfl

/-! ### The caller's buffers -/

theorem cellOf_zero (h : Handle) : cellOf h 0 = h * 4294967296 := by
  simp [cellOf]

theorem cellOf_ofNat (h : Handle) {i : Nat} (hi : i < Config.sizeRange) :
    cellOf h (BitVec.ofNat 32 i) = cellOf h 0 + i := by
  rw [cellOf_zero]
  simp only [cellOf, Config.sizeRange, BitVec.toNat_ofNat] at *
  omega

/-- The cells of two buffers lie apart (log 6). -/
theorem cellOf_outside {h h' : Handle} (hne : h' ≠ h) (i : Size) {n : Nat} (hn : n ≤ Config.sizeRange) :
    cellOf h' i < cellOf h 0 ∨ cellOf h 0 + n ≤ cellOf h' i := by
  have hi := i.isLt
  have hlt : @LT.lt Nat _ h' h ∨ @LT.lt Nat _ h h' := Nat.lt_or_gt_of_ne hne
  rw [cellOf_zero]
  simp only [cellOf, Config.sizeRange] at *
  omega

theorem lend_of_free (h : Handle) {bytes : List Byte} (hb : s.busy = false) (hl : bytes.length ≤ Config.sizeRange) :
    lend h bytes s = { s with
      caps := Cells.write 0 s.caps h bytes.length, mem := s.mem.writeAll (cellOf h 0) bytes } := by
  have hnot : ¬ Config.sizeRange < bytes.length := by omega
  rw [lend, if_neg (by simpa [hb] using hl)]

theorem lend_of_busy (h : Handle) (bytes : List Byte) (hb : s.busy = true) : lend h bytes s = s := by
  rw [lend, if_pos (by simp [hb])]

/-- Settles O38: the write of a whole block reads back inside the block, and no other buffer's cell lies in it. -/
theorem lentBufferReadsBack : Obligations.LentBufferReadsBack := by
  intro s h bytes hs hm hc hl
  have hstep : step s = .next (lend h bytes (popMove s)) := step_of_head? hs
  refine ⟨fun hb => ?_, fun hb => ?_⟩
  · rw [hstep, lend_of_busy h bytes (s := popMove s) hb]
    rfl
  rw [lend_of_free (s := popMove s) h hb hl] at hstep
  refine ⟨_, hstep, Cells.read_write_same 0 s.caps h _ hc, fun i hi => ?_,
    fun h' hne => ⟨Cells.read_write_other 0 s.caps _ hne, fun i => ?_⟩, rfl⟩
  · rw [State.byteAt, cellOf_ofNat h (by simp only [Config.sizeRange]; omega)]
    exact Memory.read_writeAll_same bytes s.mem _ i hm hi
  · exact Memory.read_writeAll_other bytes s.mem _ _ (cellOf_outside hne i hl)

end Sys2Proof.Machine
end

section
/-! PROOF. Two instances joined by the loopback wire (43_mailbox_primitives.md R215, 60_exceptions.md R244). -/

namespace Sys2Proof.Machine

/-- A frame of A with the transmit identifier passes B's filter when it gets there. -/
theorem matches_relayedId {r : RxMailbox} (hid : r.id = Config.rxId) (hmask : r.mask = Config.rxMask) :
    r.matches (relayedId Config.txId) = true := by
  rw [matches_iff, hid, hmask]
  decide

theorem wireBytes_append (s : State) (f : Frame) (hf : s.rxmb.matches f.id = true) :
    State.wireBytes { s with wireIn := s.wireIn ++ [f] } = s.wireBytes ++ f.payload := by
  simp [State.wireBytes, hf]

/-- Settles O57: the relayed frame goes from the head of A's wire to the tail of B's accepted bytes. -/
theorem loopbackWireKeepsTheBytes : Obligations.LoopbackWireKeepsTheBytes := by
  rintro ⟨a, b⟩ hi hin hall
  cases hw : a.wireOut with
  | nil =>
    have htail : a = { a with wireOut := a.wireOut.tail } := by
      rw [hw, List.tail_nil, ← hw]
    exact ⟨⟨a, b⟩, by simp [pairMove, relayFrame, hw], by simp [hw], by simpa only [hw] using htail, rfl⟩
  | cons f rest =>
    obtain ⟨-, -, hid, hmask, -⟩ := hi.configured hin
    have hf : b.rxmb.matches (relayedId f.id) = true := by
      rw [(hall f (by simp [hw])).1]
      exact matches_relayedId hid hmask
    refine ⟨⟨{ a with wireOut := rest }, { b with wireIn := b.wireIn ++ [{ f with id := relayedId f.id }] }⟩, ?_, ?_, ?_, rfl⟩
    · simp [pairMove, relayFrame, hw]
    · rw [wireBytes_append b _ hf]
      simp
    · simp

theorem handle_of_transition {m : Move} {s t : State} (h : Transition m s t) : t.handle = s.handle := by
  cases h <;> rfl

theorem handle_of_step {s t : State} (h : step s = .next t) : t.handle = s.handle :=
  handle_of_transition (s := popMove s) (transition_of_step h)

theorem pairMove_stepA_iff (p q : Pair) : pairMove .stepA p = .next q ↔ step p.a = .next q.a ∧ q.b = p.b := by
  obtain ⟨a, b⟩ := q
  cases h : step p.a <;> simp [pairMove, h, eq_comm]

theorem pairMove_stepB_iff (p q : Pair) : pairMove .stepB p = .next q ↔ step p.b = .next q.b ∧ q.a = p.a := by
  obtain ⟨a, b⟩ := q
  cases h : step p.b <;> simp [pairMove, h, eq_comm, and_comm]

theorem relayFrame_frame (p : Pair) : (relayFrame p).a = { p.a with wireOut := (relayFrame p).a.wireOut } ∧
    (relayFrame p).b = { p.b with wireIn := (relayFrame p).b.wireIn } := by
  unfold relayFrame
  split <;> exact ⟨rfl, rfl⟩

theorem handles_of_pairMove {m : PairMove} {p q : Pair} (h : pairMove m p = .next q) :
    q.a.handle = p.a.handle ∧ q.b.handle = p.b.handle := by
  cases m with
  | stepA =>
    obtain ⟨ha, hb⟩ := (pairMove_stepA_iff p q).mp h
    exact ⟨handle_of_step ha, congrArg State.handle hb⟩
  | stepB =>
    obtain ⟨hb, ha⟩ := (pairMove_stepB_iff p q).mp h
    exact ⟨congrArg State.handle ha, handle_of_step hb⟩
  | relay =>
    cases h
    obtain ⟨ha, hb⟩ := relayFrame_frame p
    rw [ha, hb]
    exact ⟨rfl, rfl⟩

/-- Settles O58: no transition writes the handle, and a move of a pair is one step or the relay. -/
theorem instancesShareOnlyTheWire : Obligations.InstancesShareOnlyTheWire := by
  refine ⟨fun _ _ => handle_of_step, pairMove_stepA_iff, pairMove_stepB_iff, fun p => ⟨_, rfl, relayFrame_frame p⟩,
    fun m p q hp h => ?_, rfl⟩
  obtain ⟨ha, hb⟩ := handles_of_pairMove h
  rwa [Pair.wf, ha, hb]

end Sys2Proof.Machine
end

section
/-! PROOF. A whole marshalling run (40_marshalling.md section 3). -/

namespace Sys2Proof.Machine

/-! ### One register -/

/-- Byte `i` of the window, register `i / 2` low byte first. -/
def windowByte (w : Window) (i : Nat) : Byte :=
  BitVec.ofNat 8 ((w.d.get (BitVec.ofNat 2 (i / 2))).toNat >>> (8 * (i % 2)))

theorem windowByte_even (w : Window) (k : BitVec 3) :
    windowByte w (2 * k.toNat) = loByte (w.d.get (k.setWidth 2)) := by
  have hk : BitVec.ofNat 2 (2 * k.toNat / 2) = k.setWidth 2 := by
    rw [Nat.mul_div_cancel_left _ (by decide)]
    rfl
  have hbit : 8 * (2 * k.toNat % 2) = 0 := by omega
  apply BitVec.eq_of_toNat_eq
  rw [windowByte, hk, hbit, loByte_toNat, BitVec.toNat_ofNat, Nat.shiftRight_zero]

theorem windowByte_odd (w : Window) (k : BitVec 3) :
    windowByte w (2 * k.toNat + 1) = hiByte (w.d.get (k.setWidth 2)) := by
  have hk : BitVec.ofNat 2 ((2 * k.toNat + 1) / 2) = k.setWidth 2 := by
    rw [show (2 * k.toNat + 1) / 2 = k.toNat by omega]
    rfl
  have hbit : 8 * ((2 * k.toNat + 1) % 2) = 8 := by omega
  have hlt := (w.d.get (k.setWidth 2)).isLt
  apply BitVec.eq_of_toNat_eq
  rw [windowByte, hk, hbit, hiByte_toNat, BitVec.toNat_ofNat, Nat.shiftRight_eq_div_pow]
  omega

/-- The state after `M_FETCH`. -/
def fetched (u : State) : State := { u with mWord := u.win.d.get (u.mK.setWidth 2), mPhase := MPhase.emit }

/-- A run that is about to fetch, inside its buffer, with no other agent's move listed. -/
structure RunReady (u : State) : Prop where
  fetches : u.mPhase = MPhase.fetch
  phase : u.phase = Phase.idle ∨ u.phase = Phase.rxCopy
  alone : u.schedule = []
  mem_wf : u.mem.wf = true
  more : 2 * u.mK.toNat < u.mN.toNat
  short : u.mN.toNat ≤ 8
  inRange : ∀ i < u.mN.toNat, (u.mOff + BitVec.ofNat 32 i).toNat < u.cap u.mDst

/-- What the rest of the run from `u` has done when it ends in `t`. -/
structure RunCopied (u t : State) : Prop where
  bytes : ∀ i, 2 * u.mK.toNat ≤ i → i < u.mN.toNat → t.byteAt u.mDst (u.mOff + BitVec.ofNat 32 i) = windowByte u.win i
  frame : ∀ a, (∀ i, 2 * u.mK.toNat ≤ i → i < u.mN.toNat → a ≠ cellOf u.mDst (u.mOff + BitVec.ofNat 32 i)) →
    t.mem.read a = u.mem.read a
  rest : t = { u with
    mem := t.mem, mK := t.mK, mWord := t.mWord, mPhase := MPhase.idle
    phase := if u.phase = Phase.rxCopy then Phase.rxRearm else u.phase
    busy := if u.phase = Phase.rxCopy then u.busy else false }

variable {u : State}

theorem RunReady.ne_faulted (h : RunReady u) : u.phase ≠ Phase.faulted := by
  rcases h.phase with hp | hp <;> simp [hp]

theorem RunReady.step_fetch (h : RunReady u) : step u = .next (fetched u) := by
  have hk : u.mK.toNat < 4 := by have := h.more; have := h.short; omega
  rw [step_of_schedule_nil h.alone, fetchEngine, if_neg h.ne_faulted, if_neg (by simp [h.fetches]), h.fetches]
  exact exec_mFetch hk

theorem RunReady.step_emit (h : RunReady u) :
    step (fetched u) = .next (emitNext { fetched u with mem := emittedMem (fetched u) }) := by
  have hfetch : fetchEngine (fetched u) = .ok .mEmit := by
    rw [fetchEngine, if_neg (show (fetched u).phase ≠ _ from h.ne_faulted), if_neg (by simp [fetched])]
    rfl
  rw [step_of_schedule_nil (s := fetched u) h.alone, hfetch]
  exact exec_mEmit_of_inRange (s := fetched u) (h.inRange _ h.more) fun hw => h.inRange _ ((wantsHigh_iff _).mp hw)

/-- One pair of steps stores its register's bytes, and no others. -/
theorem RunReady.emitted_byte (h : RunReady u) {i : Nat} (hlo : 2 * u.mK.toNat ≤ i) (hhi : i < 2 * (u.mK.toNat + 1))
    (hn : i < u.mN.toNat) :
    (emittedMem (fetched u)).read (cellOf u.mDst (u.mOff + BitVec.ofNat 32 i)) = windowByte u.win i := by
  obtain rfl | rfl : i = 2 * u.mK.toNat ∨ i = 2 * u.mK.toNat + 1 := by omega
  · rw [windowByte_even]
    exact emittedMem_read_low (s := fetched u) h.mem_wf
  · rw [windowByte_odd]
    exact emittedMem_read_high (s := fetched u) h.mem_wf ((wantsHigh_iff _).mpr hn)

theorem RunReady.emitted_frame (h : RunReady u) {a : Nat} (ha : ∀ i, 2 * u.mK.toNat ≤ i → i < 2 * (u.mK.toNat + 1) →
    i < u.mN.toNat → a ≠ cellOf u.mDst (u.mOff + BitVec.ofNat 32 i)) :
    (emittedMem (fetched u)).read a = u.mem.read a :=
  emittedMem_read_other (s := fetched u) (ha (2 * u.mK.toNat) (by omega) (by omega) h.more)
    fun hw => ha (2 * u.mK.toNat + 1) (by omega) (by omega) ((wantsHigh_iff _).mp hw)

/-! ### The run -/

/-- The state after a pair of steps that is not the last. -/
def afterPair (u : State) : State :=
  { fetched u with mem := emittedMem (fetched u), mK := u.mK + 1, mPhase := MPhase.fetch }

theorem RunReady.mK_afterPair (h : RunReady u) (hn : 2 * (u.mK.toNat + 1) < u.mN.toNat) :
    (afterPair u).mK.toNat = u.mK.toNat + 1 := toNat_mK_succ hn h.short

theorem RunReady.afterPair (h : RunReady u) (hn : 2 * (u.mK.toNat + 1) < u.mN.toNat) : RunReady (afterPair u) where
  fetches := rfl
  phase := h.phase
  alone := h.alone
  mem_wf := emittedMem_wf (s := fetched u) h.mem_wf
  more := (congrArg (2 * ·) (h.mK_afterPair hn)).trans_lt hn
  short := h.short
  inRange := h.inRange

/-- Indices of one run are apart, since it has at most eight. -/
theorem index_inj {off : Size} {i j : Nat} (hi : i < 8) (hj : j < 8)
    (h : off + BitVec.ofNat 32 i = off + BitVec.ofNat 32 j) : i = j := by
  bv_omega

theorem RunReady.copied_of_afterPair (h : RunReady u) (hn : 2 * (u.mK.toNat + 1) < u.mN.toNat) {t : State}
    (hc : RunCopied (Machine.afterPair u) t) : RunCopied u t where
  bytes i hlo hi := by
    by_cases hpair : 2 * (u.mK.toNat + 1) ≤ i
    · exact hc.bytes i (by rw [h.mK_afterPair hn]; exact hpair) hi
    · refine (hc.frame _ fun j hj hjn heq => ?_).trans (h.emitted_byte hlo (by omega) hi)
      rw [h.mK_afterPair hn] at hj
      have hjn' : j < u.mN.toNat := hjn
      have hij := index_inj (by have := h.short; omega) (by have := h.short; omega) (cellOf_inj heq).2
      omega
  frame a ha := by
    refine (hc.frame a fun i hi hin => ha i ?_ hin).trans (h.emitted_frame fun i hi _ hin => ha i hi hin)
    rw [h.mK_afterPair hn] at hi
    omega
  rest := hc.rest

theorem RunReady.copied_of_last (h : RunReady u) (hn : ¬ 2 * (u.mK.toNat + 1) < u.mN.toNat) :
    RunCopied u (emitNext { fetched u with mem := emittedMem (fetched u) }) where
  bytes i hlo hi := by
    rw [State.byteAt, emitNext_mem]
    exact h.emitted_byte hlo (by omega) hi
  frame a ha := by
    rw [emitNext_mem]
    exact h.emitted_frame fun i hi _ hin => ha i hi hin
  rest := by
    have hn' : ¬ 2 * ((fetched u).mK.toNat + 1) < (fetched u).mN.toNat := hn
    rw [emitNext_eq, if_neg hn']
    by_cases hp : u.phase = Phase.rxCopy
    · rw [if_pos (show (fetched u).phase = _ from hp)]
      simp [fetched, hp]
    · rw [if_neg (show (fetched u).phase ≠ _ from hp)]
      simp [fetched, hp]

/-- By induction on the registers left to fetch. -/
theorem RunReady.run_copies (j : Nat) : ∀ {u : State}, RunReady u → (u.mN.toNat + 1) / 2 = u.mK.toNat + j →
    ∃ t, Host.Core.run core (2 * j) u = .next t ∧ RunCopied u t := by
  induction j with
  | zero =>
    intro u h hj
    have := h.more
    omega
  | succ j ih =>
    intro u h hj
    rw [Nat.mul_succ, run_succ_of_step _ h.step_fetch, run_succ_of_step _ h.step_emit]
    by_cases hn : 2 * (u.mK.toNat + 1) < u.mN.toNat
    · have hnext : emitNext { fetched u with mem := emittedMem (fetched u) } = Machine.afterPair u :=
        (emitNext_eq _).trans (if_pos hn)
      rw [hnext]
      obtain ⟨t, hrun, hc⟩ := ih (h.afterPair hn) (by rw [h.mK_afterPair hn]; exact hj.trans (by omega))
      exact ⟨t, hrun, h.copied_of_afterPair hn hc⟩
    · obtain rfl : j = 0 := by omega
      exact ⟨_, rfl, h.copied_of_last hn⟩

/-- Settles O29: a run of no byte ends at once; another is ready to fetch register 0, and `RunReady.run_copies` has the rest. -/
theorem marshallingRunCopiesTheWindow : Obligations.MarshallingRunCopiesTheWindow := by
  intro s dst off n hm h8 hs hp hr
  by_cases h0 : n = 0
  · subst h0
    refine ⟨_, rfl, fun i hi => absurd hi (Nat.not_lt_zero i), fun a _ => rfl, ?_⟩
    rw [marshalStart_zero]
    rfl
  · have hpos : n.toNat ≠ 0 := fun h => h0 (BitVec.eq_of_toNat_eq h)
    rw [marshalStart_pos dst off s h0]
    have hready : RunReady { s with mDst := dst, mOff := off, mN := n, mK := 0, mPhase := MPhase.fetch } :=
      ⟨rfl, hp, hs, hm, by simpa using Nat.pos_of_ne_zero hpos, h8, hr⟩
    obtain ⟨t, hrun, hbytes, hframe, hrest⟩ := RunReady.run_copies ((n.toNat + 1) / 2) hready (by simp)
    exact ⟨t, hrun, fun i hi => hbytes i (Nat.zero_le i) hi, fun a ha => hframe a fun i _ hi => ha i hi, hrest⟩

/-! ### The byte that is not wanted -/

theorem emittedMem_of_lowOnly {s : State} (hw : ¬ wantsHigh s = true) :
    emittedMem s = s.mem.write (cellOf s.mDst (lowIndex s)) (loByte s.mWord) := if_neg hw

/-- The state with another fetched register. -/
def State.withWord (s : State) (w : Reg16) : State := { s with mWord := w }

theorem emitNext_withWord (s : State) (w : Reg16) : emitNext (s.withWord w) = (emitNext s).withWord w := by
  by_cases hn : 2 * (s.mK.toNat + 1) < s.mN.toNat
  · rw [emitNext_eq s, if_pos hn]
    exact (emitNext_eq _).trans (if_pos hn)
  by_cases hp : s.phase = Phase.rxCopy
  · rw [emitNext_eq s, if_neg hn, if_pos hp]
    exact (emitNext_eq _).trans ((if_neg hn).trans (if_pos hp))
  · rw [emitNext_eq s, if_neg hn, if_neg hp]
    exact (emitNext_eq _).trans ((if_neg hn).trans (if_neg hp))

theorem emittedMem_withWord {s : State} {w : Reg16} (hw : ¬ wantsHigh s = true) (hb : loByte w = loByte s.mWord) :
    emittedMem (s.withWord w) = emittedMem s := by
  rw [emittedMem_of_lowOnly hw, emittedMem_of_lowOnly (s := s.withWord w) hw, ← hb]
  rfl

theorem exec_mEmit_withWord {s t : State} {w : Reg16} (hw : ¬ wantsHigh s = true) (hb : loByte w = loByte s.mWord)
    (h : exec .mEmit s = .next t) : exec .mEmit (s.withWord w) = .next (t.withWord w) := by
  by_cases hlo : (lowIndex s).toNat < s.cap s.mDst
  · rw [exec_mEmit_of_inRange hlo fun hhi => absurd hhi hw] at h
    cases h
    rw [exec_mEmit_of_inRange (s := s.withWord w) hlo fun hhi => absurd hhi hw, emittedMem_withWord hw hb,
      ← emitNext_withWord]
    rfl
  · rw [exec_mEmit_of_outOfRange (.inl (Nat.le_of_not_lt hlo))] at h
    cases h
    exact exec_mEmit_of_outOfRange (s := s.withWord w) (.inl (Nat.le_of_not_lt hlo))

/-- Settles O30: without the high byte the store reads `loByte m_word` only, which the two states share. -/
theorem discardedByteHasNoInfluence : Obligations.DiscardedByteHasNoInfluence := by
  intro s hi hn t h
  have hw : ¬ wantsHigh s = true := by
    rw [wantsHigh_iff]
    omega
  exact exec_mEmit_withWord hw (loByte_join _ _) h

end Sys2Proof.Machine
end

section
/-! PROOF. Transmission is segmentation (42_transmit.md section 4): every transition keeps what a running TRANSMIT has handed over
equal to the slices of its source. -/

namespace Sys2Proof.Machine

variable {s t : State} {src : Handle} {size : Size} {base : List Frame}

/-! ### Frames and bytes -/

theorem handedOver_of_ready (hn : s.txmb.pending = false) : s.handedOver = s.wireOut := by
  simp [State.handedOver, hn]

theorem handedOver_of_pending (hn : s.txmb.pending = true) : s.handedOver = s.wireOut ++ [s.txmb.frame] := by
  simp [State.handedOver, hn]

theorem ofNat_toNat_add (x : Size) (i : Nat) : BitVec.ofNat 32 (x.toNat + i) = x + BitVec.ofNat 32 i := by
  simp [BitVec.ofNat_add]

/-- The frame that a submit of the chunk makes carries the next bytes of the source. -/
theorem submitted_chunk_frame (s : State) (h8 : s.txChunk.toNat ≤ 8) : (submitted (chunkDesc s) s).frame =
    { id := s.txmb.id
      payload := (List.range s.txChunk.toNat).map fun i => s.byteAt s.txSrc (BitVec.ofNat 32 (s.txCursor.toNat + i)) } := by
  simp only [ofNat_toNat_add]
  exact congrArg (Frame.mk s.txmb.id) (descData_take s (chunkDesc s) h8)

theorem segments_firstBytes_add (s : State) (b : Handle) {c n : Nat} (hc : 8 ∣ c) (h1 : 1 ≤ n) (h8 : n ≤ 8) :
    segments (s.firstBytes b (c + n)) = segments (s.firstBytes b c) ++
      [{ id := Config.txId, payload := (List.range n).map fun i => s.byteAt b (BitVec.ofNat 32 (c + i)) }] := by
  rw [State.firstBytes_add, segments_append]
  · simpa using hc
  · simpa using h1
  · simpa using h8

/-! ### What a running TRANSMIT knows -/

theorem TxProgress.txFirst_eq_false (h : TxProgress src size base s) (hp : s.phase ≠ Phase.txWait) : s.txFirst = false :=
  Bool.eq_false_iff.mpr fun hf => hp (h.first hf).2

theorem slices_of_ne_txAdvance (hp : s.phase ≠ Phase.txAdvance)
    (h : s.handedOver = base ++ segments (s.firstBytes src s.txCursor.toNat)) :
    s.handedOver = base ++ segments (s.firstBytes src
      (s.txCursor.toNat + if s.phase = Phase.txAdvance then s.txChunk.toNat else 0)) := by
  rwa [if_neg hp, Nat.add_zero]

theorem TxProgress.handedOver_of_ne_txAdvance (h : TxProgress src size base s) (hp : s.phase ≠ Phase.txAdvance) :
    s.handedOver = base ++ segments (s.firstBytes src s.txCursor.toNat) := by
  simpa only [if_neg hp, Nat.add_zero] using h.frames

theorem TxProgress.handedOver_of_txAdvance (h : TxProgress src size base s) (hp : s.phase = Phase.txAdvance) :
    s.handedOver = base ++ segments (s.firstBytes src (s.txCursor.toNat + s.txChunk.toNat)) := by
  simpa only [if_pos hp] using h.frames

theorem TxProgress.remaining_pos (h : TxProgress src size base s) : 0 < s.txRemaining.toNat :=
  Nat.pos_of_ne_zero fun h0 => h.wants (BitVec.eq_of_toNat_eq h0)

theorem TxProgress.chunk_toNat (h : TxProgress src size base s) (hp : s.phase ∈ [Phase.txSubmit, Phase.txAdvance]) :
    s.txChunk.toNat = min s.txRemaining.toNat 8 := by
  rw [h.chunk hp, chunkSize_toNat]

theorem TxProgress.advanced_remaining (h : TxProgress src size base s) (hp : s.phase = Phase.txAdvance) :
    (s.txRemaining - zextSize s.txChunk).toNat = s.txRemaining.toNat - s.txChunk.toNat := by
  have hc := h.chunk_toNat (by simp [hp])
  rw [BitVec.toNat_sub_of_le, zextSize_toNat]
  rw [BitVec.le_def, zextSize_toNat]
  omega

theorem TxProgress.advanced_cursor (h : TxProgress src size base s) (hp : s.phase = Phase.txAdvance) :
    (s.txCursor + zextSize s.txChunk).toNat = s.txCursor.toNat + s.txChunk.toNat := by
  have hc := h.chunk_toNat (by simp [hp])
  have hsum := h.sum
  have hsize := size.isLt
  rw [BitVec.toNat_add, zextSize_toNat, Nat.mod_eq_of_lt (by omega)]

/-! ### The acceptance -/

theorem exec_transmit_pos {n : Size} (b : Handle) (hp : s.phase ≠ Phase.faulted) (hb : s.busy = false)
    (hi : s.inited = true) (hn : n ≠ 0) : exec (.transmit n b) s = .next { s with
      txSrc := b, txCursor := 0, txRemaining := n, txFirst := true, busy := true, phase := Phase.txWait } := by
  rw [exec_transmit n b hp hb hi, if_neg hn]

theorem txProgress_of_accepted (hi : s.Inv) (hp : s.phase = Phase.idle) (hb : s.busy = false) (hin : s.inited = true)
    (hn : size ≠ 0) : TxProgress src size s.handedOver { s with
      txSrc := src, txCursor := 0, txRemaining := size, txFirst := true, busy := true, phase := Phase.txWait } := by
  have hr := hi.resting (by simp [hp]) hb
  exact
    { running := ⟨rfl, hin, hr.fault, hr.mPhase⟩
      phase_tx := by simp
      source := rfl
      ident := (hi.configured hin).1
      sum := by simp
      wants := hn
      aligned := by simp
      chunk := by simp
      first := fun _ => ⟨rfl, rfl⟩
      ready := by simp
      frames := by simp [State.handedOver, State.firstBytes, segments] }

/-! ### The micro-operations -/

theorem TxProgress.afterSubmit (h : TxProgress src size base s) (hp : s.phase = Phase.txSubmit)
    (hn : s.txmb.pending = false) :
    TxProgress src size base { s with txmb := submitted (chunkDesc s) s, phase := Phase.txAdvance } := by
  have hc := h.chunk_toNat (by simp [hp])
  have hpos := h.remaining_pos
  have hframes : s.wireOut = base ++ segments (s.firstBytes src s.txCursor.toNat) := by
    rw [← handedOver_of_ready hn]
    exact h.handedOver_of_ne_txAdvance (by simp [hp])
  refine { h with
    phase_tx := by simp, chunk := fun _ => h.chunk (by simp [hp]), ready := by simp, frames := ?_
    first := by simp [h.txFirst_eq_false (s := s) (by simp [hp])] }
  rw [handedOver_of_pending rfl, if_pos rfl]
  simp only [submitted_chunk_frame s (by omega : s.txChunk.toNat ≤ 8), h.ident, h.source, hframes]
  rw [List.append_assoc, ← segments_firstBytes_add s src h.aligned (by omega) (by omega)]
  rfl

theorem TxProgress.afterAdvance (h : TxProgress src size base s) (hp : s.phase = Phase.txAdvance)
    (hr : s.txRemaining - zextSize s.txChunk ≠ 0) : TxProgress src size base { s with
      txCursor := s.txCursor + zextSize s.txChunk, txRemaining := s.txRemaining - zextSize s.txChunk
      phase := Phase.txWait } := by
  have hc := h.chunk_toNat (by simp [hp])
  have hcur := h.advanced_cursor hp
  have hrem := h.advanced_remaining hp
  have hmore : s.txRemaining.toNat - s.txChunk.toNat ≠ 0 := fun h0 => hr (BitVec.eq_of_toNat_eq (hrem.trans h0))
  exact { h with
    phase_tx := by simp
    sum := by
      have hsum := h.sum
      dsimp only
      omega
    wants := hr
    aligned := by
      have h8 := h.aligned
      dsimp only
      omega
    chunk := by simp
    first := by simp [h.txFirst_eq_false (s := s) (by simp [hp])]
    ready := by simp
    frames := by
      refine slices_of_ne_txAdvance (by simp) ((h.handedOver_of_txAdvance hp).trans ?_)
      rw [hcur]
      rfl }

theorem TxProgress.handedOver_of_last (h : TxProgress src size base s) (hp : s.phase = Phase.txAdvance)
    (hr : s.txRemaining - zextSize s.txChunk = 0) : s.handedOver = base ++ segments (s.firstBytes src size.toNat) := by
  have hrem := h.advanced_remaining hp
  have hc := h.chunk_toNat (by simp [hp])
  have hsum := h.sum
  rw [hr, BitVec.ofNat_eq_ofNat, BitVec.toNat_ofNat, Nat.zero_mod] at hrem
  rw [h.handedOver_of_txAdvance hp, show s.txCursor.toNat + s.txChunk.toNat = size.toNat by omega]

/-- What a transition makes of a running TRANSMIT. -/
def TxOutcome (src : Handle) (size : Size) (base : List Frame) (t : State) : Prop :=
  TxProgress src size base t ∨ t.fault = true ∨
    (t.phase = Phase.idle ∧ t.busy = false ∧ t.fault = false ∧ t.handedOver = base ++ segments (t.firstBytes src size.toNat))

theorem txOutcome_of_transition {m : Move} (h : TxProgress src size base s) (hmove : m ≠ .reset)
    (htr : Transition m s t) : TxOutcome src size base t := by
  obtain ⟨hb, -, hfault, hrun⟩ := h.running
  have hphase := h.phase_tx
  cases htr with
  | stays => exact .inl h
  | faults => exact .inr (.inl rfl)
  | txWaitFirst hp hm hf =>
    exact .inl { h with
      phase_tx := by simp, chunk := by simp, first := by simp, ready := fun _ _ => (h.first hf).1
      frames := slices_of_ne_txAdvance (by simp) (h.handedOver_of_ne_txAdvance (by simp [hp])) }
  | txWaitReady hp hm hf hn =>
    exact .inl { h with
      phase_tx := by simp, chunk := by simp, first := by simp [hf], ready := by simp [hn]
      frames := slices_of_ne_txAdvance (by simp) (h.handedOver_of_ne_txAdvance (by simp [hp])) }
  | txWaitAgain hp =>
    exact .inl { h with
      phase_tx := by simp, chunk := by simp, first := fun hf => ⟨(h.first hf).1, rfl⟩, ready := by simp
      frames := slices_of_ne_txAdvance (by simp) (h.handedOver_of_ne_txAdvance (by simp [hp])) }
  | txDelay hp =>
    exact .inl { h with
      phase_tx := by simp, chunk := by simp, first := by simp [h.txFirst_eq_false (s := s) (by simp [hp])]
      ready := fun _ => h.ready (by simp [hp])
      frames := slices_of_ne_txAdvance (by simp) (h.handedOver_of_ne_txAdvance (by simp [hp])) }
  | txChunk hp =>
    exact .inl { h with
      phase_tx := by simp, chunk := fun _ => rfl, first := by simp [h.txFirst_eq_false (s := s) (by simp [hp])]
      ready := fun _ => h.ready (by simp [hp])
      frames := slices_of_ne_txAdvance (by simp) (h.handedOver_of_ne_txAdvance (by simp [hp])) }
  | txSubmit hp hm hn => exact .inl (h.afterSubmit hp hn)
  | txAdvanceMore hp hm hr => exact .inl (h.afterAdvance hp hr)
  | txAdvanceDone hp hm hr => exact .inr (.inr ⟨rfl, rfl, hfault, h.handedOver_of_last hp hr⟩)
  | complete hn =>
    refine .inl { h with ready := by simp, frames := ?_ }
    rw [handedOver_of_ready rfl, ← handedOver_of_pending hn]
    exact h.frames
  | deliver | discard | peerSends => exact .inl { h with }
  | engineRests hp => rcases hp with hp | hp <;> simp [hp] at hphase
  | rxPollFound hp | rxPollAgain hp | rxReq hp | rxLen hp | rxCopyStarts hp | rxCopyEmpty hp | rxRearm hp
  | rxAcctDone hp | rxAcctMore hp | mEmitLastRx hp => simp [hp] at hphase
  | mFetch _ hm | mEmitNext _ hm | mEmitLast _ _ hm => simp [hm] at hrun
  | cmdInit _ hfree | cmdReceiveNone _ _ hfree | cmdReceive _ _ _ hfree | cmdTransmitNone _ _ hfree
  | cmdTransmit _ _ _ hfree | cmdMarshalNone _ _ hfree | cmdMarshal _ _ _ hfree | reqAnswer _ hfree | reqLatch hfree
  | reqRearm hfree | reqSubmit hfree | reqConfigure hfree | lends hfree =>
    exact absurd (hfree.symm.trans hb) Bool.false_ne_true
  | resets => exact absurd rfl hmove

/-- `TxProgress` speaks of no schedule. -/
theorem TxProgress.popMove (h : TxProgress src size base s) : TxProgress src size base (popMove s) := { h with }

/-- Settles O53: acceptance establishes the progress, and each transition keeps it, faults or completes. -/
theorem transmitHandsOverTheSlices : Obligations.TransmitHandsOverTheSlices :=
  ⟨fun _ _ _ hi hp hb hin hn => ⟨_, exec_transmit_pos _ (by simp [hp]) hb hin hn, txProgress_of_accepted hi hp hb hin hn⟩,
    fun _ _ _ _ _ h hm hstep => txOutcome_of_transition h.popMove hm (transition_of_step hstep)⟩

end Sys2Proof.Machine
end

section
/-! PROOF. Reception is reassembly (41_receive.md section 4): every transition keeps the bytes in the destination followed by the
accepted bytes not drained equal to the accepted bytes in arrival order. -/

namespace Sys2Proof.Machine

variable {s t : State} {dst : Handle} {size : Size} {stream : List Byte}

/-! ### The bytes not drained -/

theorem undrained_of_drained (hn : s.rxmb.newdat = false) : s.undrained = s.wireBytes := by
  simp [State.undrained, State.mailboxBytes, hn]

theorem mailboxBytes_storeFrame {f : Frame} (hf : f.wf = true) (s : State) : (storeFrame f s).mailboxBytes = f.payload := by
  have h8 : f.payload.length ≤ 8 := by simpa [Frame.wf] using hf
  rw [State.mailboxBytes, if_pos (by simp)]
  simp only [storeFrame_rxmb, frame_toNat_length hf]
  exact deliveredData_take f _ _ h8

theorem wireBytes_cons_of_matches {f : Frame} {rest : List Frame} (hw : s.wireIn = f :: rest)
    (hm : s.rxmb.matches f.id = true) : s.wireBytes = f.payload ++ State.wireBytes { s with wireIn := rest } := by
  simp [State.wireBytes, hw, hm]

theorem wireBytes_cons_of_not_matches {f : Frame} {rest : List Frame} (hw : s.wireIn = f :: rest)
    (hm : s.rxmb.matches f.id = false) : s.wireBytes = State.wireBytes { s with wireIn := rest } := by
  simp [State.wireBytes, hw, hm]

theorem undrained_storeFrame {f : Frame} {rest : List Frame} (hw : s.wireIn = f :: rest) (hf : f.wf = true)
    (hn : s.rxmb.newdat = false) (hm : s.rxmb.matches f.id = true) :
    (storeFrame f { s with wireIn := rest }).undrained = s.undrained := by
  rw [undrained_of_drained hn, wireBytes_cons_of_matches hw hm, State.undrained, mailboxBytes_storeFrame hf]
  rfl

theorem undrained_discard {f : Frame} {rest : List Frame} (hw : s.wireIn = f :: rest) (hn : s.rxmb.newdat = false)
    (hm : s.rxmb.matches f.id = false) : State.undrained { s with wireIn := rest } = s.undrained := by
  rw [undrained_of_drained hn, undrained_of_drained (s := { s with wireIn := rest }) hn,
    wireBytes_cons_of_not_matches hw hm]

theorem undrained_append (s : State) (f : Frame) : State.undrained { s with wireIn := s.wireIn ++ [f] } =
    s.undrained ++ if s.rxmb.matches f.id then f.payload else [] := by
  by_cases hm : s.rxmb.matches f.id = true <;>
    simp [State.undrained, State.mailboxBytes, State.wireBytes, hm]

/-- Releasing a drained mailbox leaves the frames on the wire. -/
theorem undrained_rearm (hn : s.rxmb.newdat = true) (h8 : s.rxmb.dlc.toNat ≤ 8) :
    (mbRxRearm s).undrained = s.undrained.drop s.rxmb.dlc.toNat := by
  rw [State.undrained_drop hn h8, undrained_of_drained (s := mbRxRearm s) rfl]
  rfl

/-! ### How much of the frame being drained is in the destination -/

theorem copied_before_run (hp : s.phase ≠ Phase.rxRearm ∧ s.phase ≠ Phase.rxAcct)
    (hm : s.phase = Phase.rxCopy → s.mPhase = MPhase.idle) : s.copied = 0 := by
  rw [State.copied, if_neg fun h => h.2 (hm h.1), if_neg fun h => h.elim hp.1 hp.2]

theorem copied_in_run (hp : s.phase = Phase.rxCopy) (hm : s.mPhase ≠ MPhase.idle) : s.copied = 2 * s.mK.toNat := by
  rw [State.copied, if_pos ⟨hp, hm⟩]

theorem copied_after_run (hp : s.phase = Phase.rxRearm ∨ s.phase = Phase.rxAcct) : s.copied = s.rxLen.toNat := by
  rw [State.copied, if_neg, if_pos hp]
  rintro ⟨hc, -⟩
  rcases hp with h | h <;> simp [h] at hc

/-- The field `bytes` of `RxProgress`, by how many bytes are copied, outside RX_ACCT. -/
theorem stream_iff {c : Nat} (hp : s.phase ≠ Phase.rxAcct) (hc : s.copied = c) :
    s.firstBytes dst (s.rxOffset.toNat + s.copied) ++
        s.undrained.drop (if s.phase = Phase.rxAcct then 0 else s.copied) = stream ↔
      s.firstBytes dst (s.rxOffset.toNat + c) ++ s.undrained.drop c = stream := by
  rw [if_neg hp, hc]

/-- The same in RX_ACCT, where the mailbox is released already. -/
theorem stream_iff_of_rxAcct (hp : s.phase = Phase.rxAcct) :
    s.firstBytes dst (s.rxOffset.toNat + s.copied) ++
        s.undrained.drop (if s.phase = Phase.rxAcct then 0 else s.copied) = stream ↔
      s.firstBytes dst (s.rxOffset.toNat + s.rxLen.toNat) ++ s.undrained = stream := by
  rw [if_pos hp, copied_after_run (.inr hp), List.drop_zero]

/-- Before the run starts nothing of the frame is copied. -/
theorem stream_iff_before_run (hp : s.phase ≠ Phase.rxRearm ∧ s.phase ≠ Phase.rxAcct)
    (hm : s.phase = Phase.rxCopy → s.mPhase = MPhase.idle) :
    s.firstBytes dst (s.rxOffset.toNat + s.copied) ++
        s.undrained.drop (if s.phase = Phase.rxAcct then 0 else s.copied) = stream ↔
      s.firstBytes dst s.rxOffset.toNat ++ s.undrained = stream := by
  rw [stream_iff hp.2 (copied_before_run hp hm), Nat.add_zero, List.drop_zero]

/-! ### What a running RECEIVE knows -/

/-- While the frame is drained, its length is that of the mailbox. -/
theorem RxProgress.rxLen_eq_dlc (h : RxProgress dst size stream s) (hp : s.phase = Phase.rxCopy ∨ s.phase = Phase.rxRearm) :
    s.rxLen = s.rxmb.dlc := by
  rcases hp with hp | hp <;> rw [h.len (by simp [hp]), (h.latched (by simp [hp])).2]

theorem RxProgress.mPhase_eq_idle (h : RxProgress dst size stream s) (hp : s.phase ≠ Phase.rxCopy) :
    s.mPhase = MPhase.idle :=
  Classical.byContradiction fun hm => hp (h.run hm).1

theorem RxProgress.remaining_pos (h : RxProgress dst size stream s) : 0 < s.rxRemaining.toNat :=
  Nat.pos_of_ne_zero fun h0 => h.wants (BitVec.eq_of_toNat_eq h0)

theorem RxProgress.accounted_remaining (h : RxProgress dst size stream s) (hp : s.phase = Phase.rxAcct) :
    (s.rxRemaining - zextSize s.rxLen).toNat = s.rxRemaining.toNat - s.rxLen.toNat := by
  have hle := (h.fits (by simp [hp])).2
  rw [BitVec.toNat_sub_of_le, zextSize_toNat]
  rwa [BitVec.le_def, zextSize_toNat]

theorem RxProgress.accounted_offset (h : RxProgress dst size stream s) (hp : s.phase = Phase.rxAcct) :
    (s.rxOffset + zextSize s.rxLen).toNat = s.rxOffset.toNat + s.rxLen.toNat := by
  have hle := (h.fits (by simp [hp])).2
  have hsum := h.sum
  have hsize := size.isLt
  rw [BitVec.toNat_add, zextSize_toNat, Nat.mod_eq_of_lt (by omega)]

/-- What is copied of the frame is still in the mailbox, until the re-arm. -/
theorem RxProgress.copied_le (h : RxProgress dst size stream s) :
    (if s.phase = Phase.rxAcct then 0 else s.copied) ≤ s.undrained.length := by
  by_cases hacct : s.phase = Phase.rxAcct
  · simp [hacct]
  rw [if_neg hacct]
  have hlen (hp : s.phase = Phase.rxCopy ∨ s.phase = Phase.rxRearm) : s.rxLen.toNat ≤ s.undrained.length := by
    have hheld : s.rxmb.newdat = true := h.held (by rcases hp with hp | hp <;> simp [hp])
    rw [h.rxLen_eq_dlc hp, State.undrained, List.length_append, State.mailboxBytes_length hheld h.frame_len.1]
    exact Nat.le_add_right _ _
  by_cases hrearm : s.phase = Phase.rxRearm
  · rw [copied_after_run (.inl hrearm)]
    exact hlen (.inr hrearm)
  by_cases hm : s.mPhase = MPhase.idle
  · rw [copied_before_run ⟨hrearm, hacct⟩ fun _ => hm]
    exact Nat.zero_le _
  · obtain ⟨hp, -, -, hN, hk, -⟩ := h.run hm
    rw [copied_in_run hp hm]
    rw [hN] at hk
    exact (Nat.le_of_lt hk).trans (hlen (.inl hp))

/-! ### The stores of `M_EMIT` extend the bytes in the destination -/

/-- How many bytes of the frame are copied after `M_EMIT`. -/
def copiedAfterEmit (s : State) : Nat := if wantsHigh s then 2 * s.mK.toNat + 2 else 2 * s.mK.toNat + 1

theorem firstBytes_emittedMem {off : Nat} (hm : s.mem.wf = true) (hdst : s.mDst = dst) (hoff : s.mOff = BitVec.ofNat 32 off)
    (hlt : off + copiedAfterEmit s < 2 ^ 32) :
    State.firstBytes { s with mem := emittedMem s } dst (off + copiedAfterEmit s) =
      s.firstBytes dst (off + 2 * s.mK.toNat) ++
        if wantsHigh s then [loByte s.mWord, hiByte s.mWord] else [loByte s.mWord] := by
  subst hdst
  have hlow : lowIndex s = BitVec.ofNat 32 (off + 2 * s.mK.toNat) := by rw [lowIndex, hoff, BitVec.ofNat_add]
  have hhigh : highIndex s = BitVec.ofNat 32 (off + 2 * s.mK.toNat + 1) := by
    rw [highIndex, hoff, Nat.add_assoc, BitVec.ofNat_add off]
  unfold copiedAfterEmit emittedMem at *
  split_ifs at hlt ⊢ with hw
  · have hsnd := State.firstBytes_write { s with mem := s.mem.write (cellOf s.mDst (lowIndex s)) (loByte s.mWord) } s.mDst
      (off + 2 * s.mK.toNat + 1) (hiByte s.mWord) (by omega) (Memory.wf_write _ _ _ hm)
    have hfst := State.firstBytes_write s s.mDst (off + 2 * s.mK.toNat) (loByte s.mWord) (by omega) hm
    rw [hlow, hhigh]
    rw [hlow, hfst, List.append_assoc] at hsnd
    exact hsnd
  · rw [hlow]
    exact State.firstBytes_write s s.mDst (off + 2 * s.mK.toNat) (loByte s.mWord) (by omega) hm

/-- A run of a RECEIVE that is about to emit: the register's bytes are the next ones of the mailbox. -/
theorem RxProgress.stream_after_emit (h : RxProgress dst size stream s) (hm : s.mPhase = MPhase.emit) :
    State.firstBytes { s with mem := emittedMem s } dst (s.rxOffset.toNat + copiedAfterEmit s) ++
      s.undrained.drop (copiedAfterEmit s) = stream := by
  obtain ⟨hp, hdst, hoff, hN, hk, -, hword⟩ := h.run (by simp [hm])
  have hdlc := h.rxLen_eq_dlc (.inl hp)
  have hheld : s.rxmb.newdat = true := h.held (by simp [hp])
  have hd := (h.latched (by simp [hp])).1
  have h8 : s.rxmb.dlc.toNat ≤ 8 := h.frame_len.1
  obtain ⟨-, hfits⟩ := h.fits (by simp [hp])
  have hsum := h.sum
  have hsize := size.isLt
  have hstream := (stream_iff (by simp [hp]) (copied_in_run hp (by simp [hm]))).mp h.bytes
  have hnum : (s.mK.setWidth 2).toNat = s.mK.toNat := by
    rw [BitVec.toNat_setWidth, Nat.mod_eq_of_lt]
    rw [hN, hdlc] at hk
    omega
  have hlo : loByte s.mWord = s.rxmb.data.get (2 * s.mK.toNat) := by
    rw [hword hm, hd, Regs4.loByte_ofBytes, hnum]
  have hhi : hiByte s.mWord = s.rxmb.data.get (2 * s.mK.toNat + 1) := by
    rw [hword hm, hd, Regs4.hiByte_ofBytes, hnum]
  rw [hN] at hk
  have hfst := State.undrained_get hheld h8 (i := 2 * s.mK.toNat) (by rwa [← hdlc])
  have hcopied : copiedAfterEmit s ≤ s.rxLen.toNat := by
    unfold copiedAfterEmit
    split_ifs with hw
    · rw [wantsHigh_iff, hN] at hw
      omega
    · omega
  have hwrite := firstBytes_emittedMem (off := s.rxOffset.toNat) h.mem_wf hdst (by rw [hoff]; simp) (by omega)
  rw [hwrite, ← hstream, List.append_assoc]
  congr 1
  unfold copiedAfterEmit
  split_ifs with hw
  · rw [wantsHigh_iff, hN, hdlc] at hw
    rw [hfst, State.undrained_get hheld h8 hw, hlo, hhi]
    rfl
  · rw [hfst, hlo]
    rfl

end Sys2Proof.Machine
end

section
/-! PROOF. Each transition of a running RECEIVE, and with them the whole rule (41_receive.md R148). -/

namespace Sys2Proof.Machine

variable {s t : State} {dst : Handle} {size : Size} {stream : List Byte}

/-! ### The acceptance -/

theorem exec_receive_pos {n : Size} (b : Handle) (hp : s.phase ≠ Phase.faulted) (hb : s.busy = false)
    (hi : s.inited = true) (hn : n ≠ 0) : exec (.receive n b) s = .next { s with
      rxDst := b, rxOffset := 0, rxRemaining := n, busy := true, phase := Phase.rxPoll } := by
  rw [exec_receive n b hp hb hi, if_neg hn]

theorem rxProgress_of_accepted (hi : s.Inv) (hp : s.phase = Phase.idle) (hb : s.busy = false) (hin : s.inited = true)
    (hn : size ≠ 0) : RxProgress dst size s.undrained { s with
      rxDst := dst, rxOffset := 0, rxRemaining := size, busy := true, phase := Phase.rxPoll } := by
  have hr := hi.resting (by simp [hp]) hb
  exact
    { running := ⟨rfl, hin, hr.fault⟩
      phase_rx := by simp
      dest := rfl
      mem_wf := hi.mem_wf
      sum := by simp
      wants := hn
      frame_len := ⟨hi.rx_dlc, hi.in_wf⟩
      held := by simp
      latched := by simp
      len := by simp
      fits := by simp
      run := by simp [hr.mPhase]
      bytes := (stream_iff_before_run (by simp) (by simp)).mpr (by simp [State.firstBytes]; rfl) }

/-! ### The stream at each place of the drain -/

/-- Before the run starts, the destination holds the earlier frames and the mailbox all of this one. -/
theorem RxProgress.stream_before_run (h : RxProgress dst size stream s)
    (hp : s.phase ≠ Phase.rxRearm ∧ s.phase ≠ Phase.rxAcct) (hm : s.mPhase = MPhase.idle) :
    s.firstBytes dst s.rxOffset.toNat ++ s.undrained = stream :=
  (stream_iff_before_run hp fun _ => hm).mp h.bytes

theorem RxProgress.stream_after_run (h : RxProgress dst size stream s) (hp : s.phase = Phase.rxRearm) :
    s.firstBytes dst (s.rxOffset.toNat + s.rxLen.toNat) ++ s.undrained.drop s.rxLen.toNat = stream :=
  (stream_iff (by simp [hp]) (copied_after_run (.inl hp))).mp h.bytes

theorem RxProgress.stream_in_acct (h : RxProgress dst size stream s) (hp : s.phase = Phase.rxAcct) :
    s.firstBytes dst (s.rxOffset.toNat + s.rxLen.toNat) ++ s.undrained = stream :=
  (stream_iff_of_rxAcct hp).mp h.bytes

theorem bytes_in_run {c : Nat} (hp : s.phase = Phase.rxCopy) (hm : s.mPhase ≠ MPhase.idle) (hc : 2 * s.mK.toNat = c)
    (h : s.firstBytes dst (s.rxOffset.toNat + c) ++ s.undrained.drop c = stream) :
    s.firstBytes dst (s.rxOffset.toNat + s.copied) ++
      s.undrained.drop (if s.phase = Phase.rxAcct then 0 else s.copied) = stream :=
  (stream_iff (by simp [hp]) ((copied_in_run hp hm).trans hc)).mpr h

theorem bytes_after_run {c : Nat} (hp : s.phase = Phase.rxRearm) (hc : s.rxLen.toNat = c)
    (h : s.firstBytes dst (s.rxOffset.toNat + c) ++ s.undrained.drop c = stream) :
    s.firstBytes dst (s.rxOffset.toNat + s.copied) ++
      s.undrained.drop (if s.phase = Phase.rxAcct then 0 else s.copied) = stream :=
  (stream_iff (by simp [hp]) ((copied_after_run (.inl hp)).trans hc)).mpr h

/-! ### The engine's micro-operations -/

theorem RxProgress.afterPollFound (h : RxProgress dst size stream s) (hp : s.phase = Phase.rxPoll)
    (hm : s.mPhase = MPhase.idle) (hn : s.rxmb.newdat = true) :
    RxProgress dst size stream { s with phase := Phase.rxReq } :=
  { h with
    phase_rx := by simp, held := fun _ => hn, latched := by simp, len := by simp, fits := by simp, run := by simp [hm]
    bytes := (stream_iff_before_run (by simp) (by simp)).mpr (h.stream_before_run (by simp [hp]) hm) }

theorem RxProgress.afterPollAgain (h : RxProgress dst size stream s) (hp : s.phase = Phase.rxPoll)
    (hm : s.mPhase = MPhase.idle) : RxProgress dst size stream { s with rxLen := 0, phase := Phase.rxPoll } :=
  { h with
    phase_rx := by simp, held := by simp, latched := by simp, len := by simp, fits := by simp, run := by simp [hm]
    bytes := (stream_iff_before_run (by simp) (by simp)).mpr (h.stream_before_run (by simp [hp]) hm) }

theorem RxProgress.afterReq (h : RxProgress dst size stream s) (hp : s.phase = Phase.rxReq)
    (hm : s.mPhase = MPhase.idle) : RxProgress dst size stream { mbRxRequest s with phase := Phase.rxLen } :=
  { h with
    phase_rx := by simp, held := fun _ => h.held (by simp [hp]), latched := fun _ => ⟨rfl, rfl⟩, len := by simp
    fits := by simp, run := by simp [hm]
    bytes := (stream_iff_before_run (by simp) (by simp)).mpr (h.stream_before_run (by simp [hp]) hm) }

theorem RxProgress.afterLen (h : RxProgress dst size stream s) (hp : s.phase = Phase.rxLen)
    (hm : s.mPhase = MPhase.idle) (h8 : s.win.len.toNat ≤ Config.frameMax)
    (hr : s.win.len.toNat ≤ s.rxRemaining.toNat) :
    RxProgress dst size stream { s with rxLen := s.win.len, phase := Phase.rxCopy } :=
  { h with
    phase_rx := by simp, held := fun _ => h.held (by simp [hp]), latched := fun _ => h.latched (by simp [hp])
    len := fun _ => rfl, fits := fun _ => ⟨h8, hr⟩, run := by simp [hm]
    bytes := (stream_iff_before_run (by simp) (by simp [hm])).mpr (h.stream_before_run (by simp [hp]) hm) }

theorem RxProgress.afterCopyStarts (h : RxProgress dst size stream s) (hp : s.phase = Phase.rxCopy)
    (hm : s.mPhase = MPhase.idle) (hl : s.rxLen ≠ 0) : RxProgress dst size stream
      { s with mDst := s.rxDst, mOff := s.rxOffset, mN := s.rxLen, mK := 0, mPhase := MPhase.fetch } :=
  have hpos : 0 < s.rxLen.toNat := Nat.pos_of_ne_zero fun h0 => hl (BitVec.eq_of_toNat_eq h0)
  { h with
    run := fun _ => ⟨hp, h.dest, rfl, rfl, by simpa using hpos, by simp, by simp⟩
    bytes := bytes_in_run (c := 0) hp (by simp) (by simp) (h.stream_before_run (by simp [hp]) hm) }

theorem RxProgress.afterCopyEmpty (h : RxProgress dst size stream s) (hp : s.phase = Phase.rxCopy)
    (hm : s.mPhase = MPhase.idle) (hl : s.rxLen = 0) : RxProgress dst size stream { s with
      mDst := s.rxDst, mOff := s.rxOffset, mN := 0, mK := 0, mPhase := MPhase.idle, phase := Phase.rxRearm } :=
  have hcopied : s.rxLen.toNat = 0 := congrArg BitVec.toNat hl
  { h with
    phase_rx := by simp, held := fun _ => h.held (by simp [hp]), latched := fun _ => h.latched (by simp [hp])
    len := fun _ => h.len (by simp [hp]), fits := fun _ => h.fits (by simp [hp]), run := by simp
    bytes := bytes_after_run rfl hcopied (h.stream_before_run (by simp [hp]) hm) }

theorem RxProgress.afterFetch (h : RxProgress dst size stream s) (hm : s.mPhase = MPhase.fetch) :
    RxProgress dst size stream { s with mWord := mbRxData (s.mK.setWidth 2) s, mPhase := MPhase.emit } := by
  obtain ⟨hp, hdst, hoff, hN, hk, -, -⟩ := h.run (by simp [hm])
  exact { h with
    run := fun _ => ⟨hp, hdst, hoff, hN, hk, by simp, fun _ => rfl⟩
    bytes := bytes_in_run hp (by simp) rfl
      ((stream_iff (by simp [hp]) (copied_in_run hp (by simp [hm]))).mp h.bytes) }

theorem RxProgress.afterEmitNext (h : RxProgress dst size stream s) (hm : s.mPhase = MPhase.emit)
    (hn : 2 * (s.mK.toNat + 1) < s.mN.toNat) :
    RxProgress dst size stream { s with mem := emittedMem s, mK := s.mK + 1, mPhase := MPhase.fetch } := by
  obtain ⟨hp, hdst, hoff, hN, -, -, -⟩ := h.run (by simp [hm])
  have h8 : s.mN.toNat ≤ Config.frameMax := by
    rw [hN]
    exact (h.fits (by simp [hp])).1
  have hK := toNat_mK_succ hn h8
  have hcopied : copiedAfterEmit s = 2 * (s.mK + 1).toNat := by
    have hw : wantsHigh s = true := (wantsHigh_iff s).mpr (by omega)
    rw [copiedAfterEmit, if_pos hw, hK, Nat.mul_add_one]
  exact { h with
    mem_wf := emittedMem_wf h.mem_wf
    run := fun _ => ⟨hp, hdst, hoff, hN, (congrArg (2 * ·) hK).trans_lt hn, by simp, by simp⟩
    bytes := bytes_in_run hp (by simp) hcopied.symm (h.stream_after_emit hm) }

theorem RxProgress.afterEmitLast (h : RxProgress dst size stream s) (hp : s.phase = Phase.rxCopy)
    (hm : s.mPhase = MPhase.emit) (hn : ¬ 2 * (s.mK.toNat + 1) < s.mN.toNat) : RxProgress dst size stream
      { s with mem := emittedMem s, mK := s.mK + 1, mPhase := MPhase.idle, phase := Phase.rxRearm } := by
  obtain ⟨-, -, -, hN, hk, -, -⟩ := h.run (by simp [hm])
  have hcopied : copiedAfterEmit s = s.rxLen.toNat := by
    rw [copiedAfterEmit, ← hN]
    split_ifs with hw <;> rw [wantsHigh_iff] at hw <;> omega
  exact { h with
    mem_wf := emittedMem_wf h.mem_wf
    phase_rx := by simp, held := fun _ => h.held (by simp [hp]), latched := fun _ => h.latched (by simp [hp])
    len := fun _ => h.len (by simp [hp]), fits := fun _ => h.fits (by simp [hp]), run := by simp
    bytes := bytes_after_run rfl hcopied.symm (h.stream_after_emit hm) }

theorem RxProgress.afterRearm (h : RxProgress dst size stream s) (hp : s.phase = Phase.rxRearm)
    (hm : s.mPhase = MPhase.idle) : RxProgress dst size stream { mbRxRearm s with phase := Phase.rxAcct } := by
  have hrearm := undrained_rearm (h.held (by simp [hp])) h.frame_len.1
  rw [← h.rxLen_eq_dlc (.inr hp)] at hrearm
  exact { h with
    phase_rx := by simp, held := by simp, latched := by simp, len := by simp, fits := fun _ => h.fits (by simp [hp])
    run := by simp [hm]
    bytes := (stream_iff_of_rxAcct rfl).mpr
      ((congrArg (s.firstBytes dst (s.rxOffset.toNat + s.rxLen.toNat) ++ ·) hrearm).trans (h.stream_after_run hp)) }

theorem RxProgress.afterAcct (h : RxProgress dst size stream s) (hp : s.phase = Phase.rxAcct)
    (hm : s.mPhase = MPhase.idle) (hr : s.rxRemaining - zextSize s.rxLen ≠ 0) : RxProgress dst size stream { s with
      rxOffset := s.rxOffset + zextSize s.rxLen, rxRemaining := s.rxRemaining - zextSize s.rxLen
      phase := Phase.rxPoll } := by
  have hoff := h.accounted_offset hp
  have hrem := h.accounted_remaining hp
  have hstream := h.stream_in_acct hp
  rw [← hoff] at hstream
  exact { h with
    phase_rx := by simp
    sum := by
      have hsum := h.sum
      have hle := (h.fits (by simp [hp])).2
      dsimp only
      omega
    wants := hr
    held := by simp, latched := by simp, len := by simp, fits := by simp, run := by simp [hm]
    bytes := (stream_iff_before_run (by simp) (by simp)).mpr hstream }

theorem RxProgress.stream_of_last (h : RxProgress dst size stream s) (hp : s.phase = Phase.rxAcct)
    (hr : s.rxRemaining - zextSize s.rxLen = 0) : s.firstBytes dst size.toNat ++ s.undrained = stream := by
  have hrem := h.accounted_remaining hp
  have hle := (h.fits (by simp [hp])).2
  have hsum := h.sum
  rw [hr, BitVec.ofNat_eq_ofNat, BitVec.toNat_ofNat, Nat.zero_mod] at hrem
  rw [← h.stream_in_acct hp, show s.rxOffset.toNat + s.rxLen.toNat = size.toNat by omega]

/-! ### The environment's moves -/

theorem RxProgress.bytes_of_undrained (h : RxProgress dst size stream s) {u : List Byte} (hu : u = s.undrained) :
    s.firstBytes dst (s.rxOffset.toNat + s.copied) ++
      u.drop (if s.phase = Phase.rxAcct then 0 else s.copied) = stream := by
  rw [hu]
  exact h.bytes

theorem RxProgress.afterDeliver (h : RxProgress dst size stream s) {f : Frame} {rest : List Frame}
    (hw : s.wireIn = f :: rest) (hn : s.rxmb.newdat = false) (hm : s.rxmb.matches f.id = true) :
    RxProgress dst size stream (storeFrame f { s with wireIn := rest }) := by
  have hall := h.frame_len.2
  rw [hw] at hall
  have hf := hall f List.mem_cons_self
  have hnot (hp : s.phase ∈ [Phase.rxReq, Phase.rxLen, Phase.rxCopy, Phase.rxRearm]) : False :=
    Bool.false_ne_true (hn.symm.trans (h.held hp))
  exact { h with
    frame_len := ⟨by simpa [frame_toNat_length hf, Frame.wf] using hf, fun g hg => hall g (List.mem_cons_of_mem _ hg)⟩
    held := fun _ => rfl
    latched := fun hp => (hnot (List.mem_cons_of_mem _ hp)).elim
    bytes := h.bytes_of_undrained (undrained_storeFrame hw hf hn hm) }

theorem RxProgress.afterDiscard (h : RxProgress dst size stream s) {f : Frame} {rest : List Frame}
    (hw : s.wireIn = f :: rest) (hn : s.rxmb.newdat = false) (hm : s.rxmb.matches f.id = false) :
    RxProgress dst size stream { s with wireIn := rest } :=
  { h with
    frame_len := ⟨h.frame_len.1, fun g hg => h.frame_len.2 g (by rw [hw]; exact List.mem_cons_of_mem _ hg)⟩
    bytes := h.bytes_of_undrained (undrained_discard hw hn hm) }

theorem RxProgress.afterPeerSends (h : RxProgress dst size stream s) {f : Frame} (hf : f.wf = true) :
    RxProgress dst size (stream ++ if s.rxmb.matches f.id then f.payload else [])
      { s with wireIn := s.wireIn ++ [f] } :=
  { h with
    frame_len := ⟨h.frame_len.1, by simpa [or_imp, forall_and] using ⟨h.frame_len.2, hf⟩⟩
    bytes := by
      rw [undrained_append, ← h.bytes, List.append_assoc, ← List.drop_append_of_le_length h.copied_le]
      rfl }

/-! ### Every transition -/

/-- What a transition makes of a running RECEIVE; `stream` has what the move adds. -/
def RxOutcome (dst : Handle) (size : Size) (stream : List Byte) (t : State) : Prop :=
  RxProgress dst size stream t ∨ t.fault = true ∨
    (t.phase = Phase.idle ∧ t.busy = false ∧ t.fault = false ∧ t.firstBytes dst size.toNat ++ t.undrained = stream)

/-- What a move adds to the accepted bytes under way: `State.newBytes` of the state that makes the move. -/
def Move.addedBytes (m : Move) (s : State) : List Byte :=
  match m with
  | .peerSend f => if f.wf && s.rxmb.matches f.id then f.payload else []
  | _ => []

theorem newBytes_eq_addedBytes (s : State) : s.newBytes = (nextMove s).addedBytes (popMove s) := by
  unfold State.newBytes Move.addedBytes
  cases nextMove s <;> rfl

theorem addedBytes_of_stays {m : Move} (hf : ∀ f, m = .peerSend f → f.wf = false) : m.addedBytes s = [] := by
  cases m with
  | peerSend f => simp [Move.addedBytes, hf f rfl]
  | _ => rfl

theorem rxOutcome_of_transition {m : Move} (h : RxProgress dst size stream s) (hmove : m ≠ .reset)
    (htr : Transition m s t) : RxOutcome dst size (stream ++ m.addedBytes s) t := by
  obtain ⟨hb, -, hfault⟩ := h.running
  have hphase := h.phase_rx
  have hnone {u : State} (hu : RxProgress dst size stream u) : RxProgress dst size (stream ++ []) u := by
    rwa [List.append_nil]
  cases htr with
  | stays _ hf => rw [addedBytes_of_stays hf]; exact .inl (hnone h)
  | faults => exact .inr (.inl rfl)
  | rxPollFound hp hm hn => exact .inl (hnone (h.afterPollFound hp hm hn))
  | rxPollAgain hp hm => exact .inl (hnone (h.afterPollAgain hp hm))
  | rxReq hp hm => exact .inl (hnone (h.afterReq hp hm))
  | rxLen hp hm h8 hr => exact .inl (hnone (h.afterLen hp hm h8 hr))
  | rxCopyStarts hp hm hl => exact .inl (hnone (h.afterCopyStarts hp hm hl))
  | rxCopyEmpty hp hm hl => exact .inl (hnone (h.afterCopyEmpty hp hm hl))
  | mFetch _ hm => exact .inl (hnone (h.afterFetch hm))
  | mEmitNext _ hm hn => exact .inl (hnone (h.afterEmitNext hm hn))
  | mEmitLastRx hp hm hn => exact .inl (hnone (h.afterEmitLast hp hm hn))
  | rxRearm hp hm => exact .inl (hnone (h.afterRearm hp hm))
  | rxAcctMore hp hm hr => exact .inl (hnone (h.afterAcct hp hm hr))
  | rxAcctDone hp hm hr => 
    exact .inr (.inr ⟨rfl, rfl, hfault, (h.stream_of_last hp hr).trans (List.append_nil stream).symm⟩)
  | deliver hw _ hn hm => exact .inl (hnone (h.afterDeliver hw hn hm))
  | discard hw _ hn hm => exact .inl (hnone (h.afterDiscard hw hn hm))
  | complete => exact .inl (hnone { h with })
  | peerSends hf => exact .inl (by simpa [Move.addedBytes, hf] using h.afterPeerSends hf)
  | engineRests hp => rcases hp with hp | hp <;> simp [hp] at hphase
  | txWaitFirst hp | txWaitReady hp | txWaitAgain hp | txDelay hp | txChunk hp | txSubmit hp | txAdvanceDone hp
  | txAdvanceMore hp => simp [hp] at hphase
  | mEmitLast _ hc hm => exact absurd (h.run (by simp [hm])).1 hc
  | cmdInit _ hfree | cmdReceiveNone _ _ hfree | cmdReceive _ _ _ hfree | cmdTransmitNone _ _ hfree
  | cmdTransmit _ _ _ hfree | cmdMarshalNone _ _ hfree | cmdMarshal _ _ _ hfree | reqAnswer _ hfree | reqLatch hfree
  | reqRearm hfree | reqSubmit hfree | reqConfigure hfree | lends hfree =>
    exact absurd (hfree.symm.trans hb) Bool.false_ne_true
  | resets => exact absurd rfl hmove

/-- `RxProgress` speaks of no schedule. -/
theorem RxProgress.popMove (h : RxProgress dst size stream s) : RxProgress dst size stream (popMove s) := { h with }

/-- Settles O55: acceptance has everything still to drain, and each transition keeps the stream, faults or completes. -/
theorem receiveWritesInArrivalOrder : Obligations.ReceiveWritesInArrivalOrder := by
  refine ⟨fun _ _ _ hi hp hb hin hn =>
    ⟨_, exec_receive_pos _ (by simp [hp]) hb hin hn, rxProgress_of_accepted hi hp hb hin hn⟩, ?_⟩
  intro s t dst size stream h hm hstep
  rw [newBytes_eq_addedBytes]
  exact rxOutcome_of_transition h.popMove hm (transition_of_step hstep)

end Sys2Proof.Machine
end

section
/-! PROOF. Runs on a schedule of one's own choice, and termination by a rank (20_memory.md R74; log 3). -/

namespace Sys2Proof.Machine

/-- The move `m`, listed next, leads from `s` to `t` whatever is listed after it. -/
def MovesTo (m : Move) (s t : State) : Prop :=
  ∀ later, step { s with schedule := m :: later } = .next { t with schedule := later }

/-- Some list of moves that all satisfy `P` leads from `s` to `t`. -/
def Reaches (P : Move → Prop) (s t : State) : Prop :=
  ∃ sched : List Move, (∀ m ∈ sched, P m) ∧
    Host.Core.run core sched.length { s with schedule := sched } = .next { t with schedule := [] }

variable {P : Move → Prop} {m : Move} {s t u : State}

theorem Reaches.refl (P : Move → Prop) (s : State) : Reaches P s s := ⟨[], by simp, rfl⟩

theorem Reaches.head (hm : P m) (hst : MovesTo m s t) (htu : Reaches P t u) : Reaches P s u := by
  obtain ⟨sched, hall, hrun⟩ := htu
  refine ⟨m :: sched, by simpa using ⟨hm, hall⟩, ?_⟩
  rw [List.length_cons, run_succ_of_step _ (hst sched), hrun]

/-- If from every good state some move leads to a finished one, or to a good one of smaller rank, a finished state is reached. -/
theorem reaches_of_rank {Good Done : State → Prop} (rank : State → Nat)
    (hmove : ∀ s, Good s → ∃ m t, P m ∧ MovesTo m s t ∧ (Done t ∨ Good t ∧ rank t < rank s)) :
    ∀ s, Good s → ∃ t, Reaches P s t ∧ Done t := by
  suffices h : ∀ n s, rank s = n → Good s → ∃ t, Reaches P s t ∧ Done t from fun s => h _ s rfl
  intro n
  induction n using Nat.strongRecOn with
  | ind n ih =>
    intro s hn hs
    obtain ⟨m, t, hm, hst, hdone | ⟨hgood, hlt⟩⟩ := hmove s hs
    · exact ⟨t, (Reaches.refl P t).head hm hst, hdone⟩
    · obtain ⟨u, hreach, hu⟩ := ih _ (hn ▸ hlt) t rfl hgood
      exact ⟨u, hreach.head hm hst, hu⟩

/-! ### The moves of the engine and of the controller -/

theorem step_of_listed (m : Move) (s : State) (later : List Move) :
    step { s with schedule := m :: later } = runMove m { s with schedule := later } := rfl

theorem movesTo_of_phase {i : Instr} (hm : s.mPhase = MPhase.idle) (hd : decodePhase s.phase = .ok i)
    (h : ∀ later, exec i { s with schedule := later } = .next { t with schedule := later }) : MovesTo .engine s t := by
  intro later
  rw [step_of_listed, runMove_engine_of_mIdle (s := { s with schedule := later }) (ne_faulted_of_decodePhase_ok hd) hm, hd]
  exact h later

theorem movesTo_of_mPhase {i : Instr} (hp : s.phase ≠ Phase.faulted) (hd : decodeMPhase s.mPhase = .ok i)
    (h : ∀ later, exec i { s with schedule := later } = .next { t with schedule := later }) : MovesTo .engine s t := by
  intro later
  rw [step_of_listed, runMove_engine_of_run (s := { s with schedule := later }) hp (ne_idle_of_decodeMPhase_ok hd), hd]
  exact h later

theorem movesTo_complete (hn : s.txmb.pending = true) : MovesTo .txComplete s
    { s with wireOut := s.wireOut ++ [s.txmb.frame], txmb := { s.txmb with pending := false } } := by
  intro later
  exact congrArg Host.Outcome.next (if_pos hn)

theorem movesTo_deliver {f : Frame} {rest : List Frame} (hw : s.wireIn = f :: rest) (hi : s.inited = true)
    (hn : s.rxmb.newdat = false) (hm : s.rxmb.matches f.id = true) :
    MovesTo .rxDeliver s (storeFrame f { s with wireIn := rest }) := by
  intro later
  exact congrArg Host.Outcome.next (rxDeliver_stores (s := { s with schedule := later }) hw hi hn hm)

theorem movesTo_discard {f : Frame} {rest : List Frame} (hw : s.wireIn = f :: rest) (hi : s.inited = true)
    (hn : s.rxmb.newdat = false) (hm : s.rxmb.matches f.id = false) :
    MovesTo .rxDeliver s { s with wireIn := rest } := by
  intro later
  exact congrArg Host.Outcome.next (rxDeliver_discards (s := { s with schedule := later }) hw hi hn hm)

theorem MovesTo.transition (h : MovesTo m s t) : Transition m { s with schedule := [] } { t with schedule := [] } :=
  transition_of_step (h [])

end Sys2Proof.Machine
end

section
/-! PROOF. A TRANSMIT can complete (42_transmit.md section 4): the controller sends each frame before the next one is handed over, and
the bytes left and the place in the loop go down with every move. -/

namespace Sys2Proof.Machine

variable {s t : State} {src : Handle} {size : Size} {base : List Frame}

/-! ### Each move of the loop -/

/-- A TRANSMIT inside its source that will find the mailbox ready when it submits. -/
structure TxAble (src : Handle) (size : Size) (base : List Frame) (s : State) : Prop where
  progress : TxProgress src size base s
  room : size.toNat ≤ s.cap src
  clear : s.phase ∈ [Phase.txDelay, Phase.txChunk, Phase.txSubmit] ∨ s.txFirst = true → s.txmb.pending = false

/-- The bytes left, then the place in the loop; waiting with a frame pending comes before waiting without. -/
def txRank (s : State) : Nat :=
  10 * s.txRemaining.toNat +
    if s.phase = Phase.txWait then (if s.txmb.pending then 6 else 5)
    else if s.phase = Phase.txDelay then 4
    else if s.phase = Phase.txChunk then 3
    else if s.phase = Phase.txSubmit then 2
    else 1

/-- The moves that a schedule for a TRANSMIT lists. -/
def IsTxMove (m : Move) : Prop := m = .engine ∨ m = .txComplete

/-- A move of the loop raises no fault, touches no buffer, and unless it ends the call it goes down in rank. -/
def TxGoesOn (s t : State) : Prop :=
  t.fault = false ∧ t.mem = s.mem ∧ t.caps = s.caps ∧
    (t.phase ≠ Phase.idle → txRank t < txRank s ∧
      (t.phase ∈ [Phase.txDelay, Phase.txChunk, Phase.txSubmit] ∨ t.txFirst = true → t.txmb.pending = false))

section Moves

variable (h : TxAble src size base s)
include h

theorem TxAble.fault : s.fault = false := h.progress.running.2.2.1

theorem TxAble.mPhase : s.mPhase = MPhase.idle := h.progress.running.2.2.2

theorem TxAble.move_of_wait (hp : s.phase = Phase.txWait) : ∃ m t, IsTxMove m ∧ MovesTo m s t ∧ TxGoesOn s t := by
  have hfetch : decodePhase s.phase = .ok .txWait := by
    rw [hp]
    rfl
  cases hn : s.txmb.pending with
  | true =>
    exact ⟨_, _, .inr rfl, movesTo_complete hn, h.fault, rfl, rfl, fun _ => ⟨by simp [txRank, hp, hn], fun _ => rfl⟩⟩
  | false =>
    cases hf : s.txFirst with
    | true =>
      exact ⟨_, _, .inl rfl, movesTo_of_phase (t := { s with txFirst := false, phase := Phase.txDelay }) h.mPhase hfetch
        fun later => exec_txWait_first (s := { s with schedule := later }) hf, h.fault, rfl, rfl,
        fun _ => ⟨by simp [txRank, hp, hn], fun _ => hn⟩⟩
    | false =>
      exact ⟨_, _, .inl rfl, movesTo_of_phase (t := { s with phase := Phase.txDelay }) h.mPhase hfetch
        fun later => exec_txWait_ready (s := { s with schedule := later }) hf hn, h.fault, rfl, rfl,
        fun _ => ⟨by simp [txRank, hp, hn], fun _ => hn⟩⟩

theorem TxAble.move_of_delay (hp : s.phase = Phase.txDelay) : ∃ m t, IsTxMove m ∧ MovesTo m s t ∧ TxGoesOn s t :=
  ⟨_, _, .inl rfl, movesTo_of_phase (i := .txDelay) (t := { s with phase := Phase.txChunk }) h.mPhase (by rw [hp]; rfl)
    fun _ => rfl, h.fault, rfl, rfl, fun _ => ⟨by simp [txRank, hp], fun _ => h.clear (by simp [hp])⟩⟩

theorem TxAble.move_of_chunk (hp : s.phase = Phase.txChunk) : ∃ m t, IsTxMove m ∧ MovesTo m s t ∧ TxGoesOn s t :=
  ⟨_, _, .inl rfl, movesTo_of_phase (i := .txChunk)
    (t := { s with txChunk := chunkSize s.txRemaining, phase := Phase.txSubmit }) h.mPhase (by rw [hp]; rfl)
    fun _ => rfl, h.fault, rfl, rfl, fun _ => ⟨by simp [txRank, hp], fun _ => h.clear (by simp [hp])⟩⟩

theorem TxAble.chunk_inRange (hp : s.phase = Phase.txSubmit) :
    ∀ i < s.txChunk.toNat, (s.txCursor + BitVec.ofNat 32 i).toNat < s.cap s.txSrc := by
  intro i hi
  have hc := h.progress.chunk_toNat (by simp [hp])
  have hsum := h.progress.sum
  have hroom := h.room
  have hsize := size.isLt
  rw [h.progress.source, ← ofNat_toNat_add, BitVec.toNat_ofNat]
  omega

theorem TxAble.move_of_submit (hp : s.phase = Phase.txSubmit) : ∃ m t, IsTxMove m ∧ MovesTo m s t ∧ TxGoesOn s t := by
  have hn : s.txmb.pending = false := h.clear (by simp [hp])
  have hc := h.progress.chunk_toNat (by simp [hp])
  have hfirst := h.progress.txFirst_eq_false (by simp [hp])
  exact ⟨_, _, .inl rfl, movesTo_of_phase (i := .txSubmit)
    (t := { s with txmb := submitted (chunkDesc s) s, phase := Phase.txAdvance }) h.mPhase (by rw [hp]; rfl)
    fun later => exec_txSubmit (s := { s with schedule := later }) hn (by dsimp only; omega) (h.chunk_inRange hp),
    h.fault, rfl, rfl, fun _ => ⟨by simp [txRank, hp], by simp [hfirst]⟩⟩

theorem TxAble.move_of_advance (hp : s.phase = Phase.txAdvance) : ∃ m t, IsTxMove m ∧ MovesTo m s t ∧ TxGoesOn s t := by
  have hfetch : decodePhase s.phase = .ok .txAdvance := by
    rw [hp]
    rfl
  have hfirst := h.progress.txFirst_eq_false (by simp [hp])
  by_cases hr : s.txRemaining - zextSize s.txChunk = 0
  · exact ⟨_, _, .inl rfl, movesTo_of_phase (t := { s with
      txCursor := s.txCursor + zextSize s.txChunk, txRemaining := s.txRemaining - zextSize s.txChunk
      phase := Phase.idle, busy := false }) h.mPhase hfetch
      fun later => (exec_txAdvance { s with schedule := later }).trans (congrArg Host.Outcome.next (if_pos hr)),
      h.fault, rfl, rfl, fun hidle => absurd rfl hidle⟩
  · have hrem := h.progress.advanced_remaining hp
    have hc := h.progress.chunk_toNat (by simp [hp])
    have hpos := h.progress.remaining_pos
    refine ⟨_, _, .inl rfl, movesTo_of_phase (t := { s with
      txCursor := s.txCursor + zextSize s.txChunk, txRemaining := s.txRemaining - zextSize s.txChunk
      phase := Phase.txWait }) h.mPhase hfetch
      fun later => (exec_txAdvance { s with schedule := later }).trans (congrArg Host.Outcome.next (if_neg hr)),
      h.fault, rfl, rfl, fun _ => ⟨?_, by simp [hfirst]⟩⟩
    cases hn : s.txmb.pending <;> simp [txRank, hrem, hp, hn] <;> omega

theorem TxAble.move : ∃ m t, IsTxMove m ∧ MovesTo m s t ∧ TxGoesOn s t := by
  have hphase := h.progress.phase_tx
  simp only [transmitPhases, List.mem_cons, List.not_mem_nil, or_false] at hphase
  rcases hphase with hp | hp | hp | hp | hp
  · exact h.move_of_wait hp
  · exact h.move_of_delay hp
  · exact h.move_of_chunk hp
  · exact h.move_of_submit hp
  · exact h.move_of_advance hp

end Moves

/-! ### The whole call -/

/-- O53 for a chosen move. -/
theorem TxProgress.outcome_of_movesTo {m : Move} (h : TxProgress src size base s) (hm : IsTxMove m) (hst : MovesTo m s t) :
    TxOutcome src size base t := by
  have hreset : m ≠ .reset := by rcases hm with rfl | rfl <;> simp
  obtain hgo | hrest := txOutcome_of_transition (s := { s with schedule := [] }) { h with } hreset hst.transition
  · exact .inl { hgo with }
  · exact .inr hrest

/-- The call has returned without a fault, with the slices of the source handed over, and memory is `mem`. -/
structure TxDone (src : Handle) (size : Size) (base : List Frame) (mem : Memory) (t : State) : Prop where
  phase : t.phase = Phase.idle
  busy : t.busy = false
  fault : t.fault = false
  frames : t.handedOver = base ++ segments (t.firstBytes src size.toNat)
  mem_eq : t.mem = mem

theorem tx_reaches_done (h : TxAble src size base s) : ∃ t, Reaches IsTxMove s t ∧ TxDone src size base s.mem t := by
  refine reaches_of_rank (Good := fun u => TxAble src size base u ∧ u.mem = s.mem) txRank ?_ s ⟨h, rfl⟩
  rintro u ⟨hu, hmem⟩
  obtain ⟨m, t, hm, hst, hfault, hmem', hcaps, hgo⟩ := hu.move
  refine ⟨m, t, hm, hst, ?_⟩
  obtain hprog | hf | ⟨hp, hb, -, hframes⟩ := hu.progress.outcome_of_movesTo hm hst
  · obtain ⟨hlt, hclear⟩ := hgo (transmitPhases_disjoint hprog.phase_tx).2.1
    have hroom : size.toNat ≤ t.cap src := by
      rw [State.cap, hcaps]
      exact hu.room
    exact .inr ⟨⟨⟨hprog, hroom, hclear⟩, hmem'.trans hmem⟩, hlt⟩
  · exact absurd (hfault.symm.trans hf) Bool.false_ne_true
  · exact .inl ⟨hp, hb, hfault, hframes, hmem'.trans hmem⟩

/-- Slice `j` of a source: its identifier, its length and its bytes (42_transmit.md R177). -/
theorem segments_getElem (s : State) (b : Handle) (n j : Nat) (hj : j < (segments (s.firstBytes b n)).length) :
    (segments (s.firstBytes b n))[j].id = Config.txId ∧
    (segments (s.firstBytes b n))[j].payload.length = min (n - 8 * j) 8 ∧
    ∀ (i : Nat) (hi : i < (segments (s.firstBytes b n))[j].payload.length),
      (segments (s.firstBytes b n))[j].payload[i] = s.byteAt b (BitVec.ofNat 32 (8 * j + i)) := by
  have hget : (segments (s.firstBytes b n))[j] =
      { id := Config.txId, payload := ((s.firstBytes b n).drop (8 * j)).take 8 } := by
    simp [segments]
  rw [hget]
  refine ⟨rfl, by simp [Nat.min_comm], fun i hi => ?_⟩
  simp [State.firstBytes]

/-- Settles O54: the schedule is the one along which `txRank` goes down, and the frames are the slices. -/
theorem transmitCanComplete : Obligations.TransmitCanComplete := by
  intro s src size base h hp hn hroom
  obtain ⟨t, ⟨sched, hall, hrun⟩, hdone⟩ := tx_reaches_done ⟨h, hroom, fun _ => hn⟩
  refine ⟨sched, _, _, segments (s.firstBytes src size.toNat), hall, hrun, hdone.phase, hdone.busy, hdone.fault, ?_, ?_,
    segments_getElem s src size.toNat⟩
  · rw [← State.firstBytes_congr hdone.mem_eq]
    exact hdone.frames
  · simp [segments]

end Sys2Proof.Machine
end

section
/-! PROOF. A RECEIVE can complete (41_receive.md section 4): each frame on the wire is delivered and drained, and the frames left and
the place in the drain go down with every move. -/

namespace Sys2Proof.Machine

variable {s t : State} {dst : Handle} {size : Size} {stream : List Byte}

/-! ### Each move of the loop -/

/-- A RECEIVE inside its destination, with exactly the bytes it wants under way. -/
structure RxAble (dst : Handle) (size : Size) (stream : List Byte) (s : State) : Prop where
  progress : RxProgress dst size stream s
  room : size.toNat ≤ s.cap dst
  total : stream.length = size.toNat

/-- The place in the drain of one frame, from the delivery to the accounting. -/
def drainRank (s : State) : Nat :=
  if s.phase = Phase.rxPoll then (if s.rxmb.newdat then 19 else 0)
  else if s.phase = Phase.rxReq then 18
  else if s.phase = Phase.rxLen then 17
  else if s.phase = Phase.rxCopy then
    (if s.mPhase = MPhase.idle then 16
    else if s.mPhase = MPhase.fetch then 15 - 2 * s.mK.toNat
    else 14 - 2 * s.mK.toNat)
  else if s.phase = Phase.rxRearm then 7
  else if s.rxmb.newdat then 20
  else 6

/-- The frames left on the wire, then the place in the drain. -/
def rxRank (s : State) : Nat := 20 * s.wireIn.length + drainRank s

/-- The moves that a schedule for a RECEIVE lists. -/
def IsRxMove (m : Move) : Prop := m = .engine ∨ m = .rxDeliver

/-- A move of the loop raises no fault, changes no capacity, and unless it ends the call it goes down in rank. -/
def RxGoesOn (s t : State) : Prop :=
  t.fault = false ∧ t.caps = s.caps ∧ (t.phase ≠ Phase.idle → rxRank t < rxRank s)

section Moves

variable (h : RxAble dst size stream s)
include h

theorem RxAble.fault : s.fault = false := h.progress.running.2.2

theorem RxAble.undrained_length (hp : s.phase ≠ Phase.rxRearm ∧ s.phase ≠ Phase.rxAcct) (hm : s.mPhase = MPhase.idle) :
    s.undrained.length = s.rxRemaining.toNat := by
  have hlen := congrArg List.length (h.progress.stream_before_run hp hm)
  have hsum := h.progress.sum
  have hexact := h.total
  rw [List.length_append, State.firstBytes_length] at hlen
  omega

/-- The bytes still wanted are on the wire, so a frame is. -/
theorem RxAble.wireIn_ne_nil (hp : s.phase = Phase.rxPoll) (hn : s.rxmb.newdat = false) : s.wireIn ≠ [] := by
  intro hw
  have hlen := h.undrained_length (by simp [hp]) (h.progress.mPhase_eq_idle (by simp [hp]))
  have hpos := h.progress.remaining_pos
  rw [undrained_of_drained hn, State.wireBytes, hw] at hlen
  simp at hlen
  omega

theorem RxAble.move_of_poll (hp : s.phase = Phase.rxPoll) : ∃ m t, IsRxMove m ∧ MovesTo m s t ∧ RxGoesOn s t := by
  have hm := h.progress.mPhase_eq_idle (by simp [hp])
  have hi : s.inited = true := h.progress.running.2.1
  cases hn : s.rxmb.newdat with
  | true =>
    exact ⟨_, _, .inl rfl, movesTo_of_phase (i := .rxPoll) (t := { s with phase := Phase.rxReq }) hm (by rw [hp]; rfl)
      fun later => (exec_rxPoll { s with schedule := later }).trans (congrArg Host.Outcome.next (if_pos hn)),
      h.fault, rfl, fun _ => by simp [rxRank, drainRank, hp, hn]⟩
  | false =>
    obtain ⟨f, rest, hw⟩ := List.exists_cons_of_ne_nil (h.wireIn_ne_nil hp hn)
    cases hf : s.rxmb.matches f.id with
    | true =>
      exact ⟨_, _, .inr rfl, movesTo_deliver hw hi hn hf, h.fault, rfl,
        fun _ => by simp [rxRank, drainRank, hp, hn, hw]; omega⟩
    | false =>
      exact ⟨_, _, .inr rfl, movesTo_discard hw hi hn hf, h.fault, rfl,
        fun _ => by simp [rxRank, drainRank, hp, hn, hw]⟩

theorem RxAble.move_of_req (hp : s.phase = Phase.rxReq) : ∃ m t, IsRxMove m ∧ MovesTo m s t ∧ RxGoesOn s t :=
  ⟨_, _, .inl rfl, movesTo_of_phase (i := .rxReq) (t := { mbRxRequest s with phase := Phase.rxLen })
    (h.progress.mPhase_eq_idle (by simp [hp])) (by rw [hp]; rfl) fun _ => rfl,
    h.fault, rfl, fun _ => by simp [rxRank, drainRank, hp]⟩

/-- The frame fits: its bytes are among the bytes under way, which are those still wanted. -/
theorem RxAble.len_le (hp : s.phase = Phase.rxLen) :
    s.win.len.toNat ≤ 8 ∧ s.win.len.toNat ≤ s.rxRemaining.toNat := by
  have hlen := h.undrained_length (by simp [hp]) (h.progress.mPhase_eq_idle (by simp [hp]))
  have h8 := h.progress.frame_len.1
  have hheld : s.rxmb.newdat = true := h.progress.held (by simp [hp])
  rw [(h.progress.latched (by simp [hp])).2]
  rw [State.undrained, List.length_append, State.mailboxBytes_length hheld h8] at hlen
  exact ⟨h8, by omega⟩

theorem RxAble.move_of_len (hp : s.phase = Phase.rxLen) : ∃ m t, IsRxMove m ∧ MovesTo m s t ∧ RxGoesOn s t := by
  have hm := h.progress.mPhase_eq_idle (by simp [hp])
  obtain ⟨h8, hr⟩ := h.len_le hp
  exact ⟨_, _, .inl rfl, movesTo_of_phase (i := .rxLen) (t := { s with rxLen := s.win.len, phase := Phase.rxCopy }) hm
    (by rw [hp]; rfl) fun later => exec_rxLen (s := { s with schedule := later }) h8 hr,
    h.fault, rfl, fun _ => by simp [rxRank, drainRank, hp, hm]⟩

theorem RxAble.move_of_copy (hp : s.phase = Phase.rxCopy) (hm : s.mPhase = MPhase.idle) :
    ∃ m t, IsRxMove m ∧ MovesTo m s t ∧ RxGoesOn s t := by
  have hfetch : decodePhase s.phase = .ok .rxCopy := by
    rw [hp]
    rfl
  by_cases hl : s.rxLen = 0
  · exact ⟨_, _, .inl rfl, movesTo_of_phase (t := { s with
      mDst := s.rxDst, mOff := s.rxOffset, mN := 0, mK := 0, mPhase := MPhase.idle, phase := Phase.rxRearm }) hm hfetch
      fun later => exec_rxCopy_zero (s := { s with schedule := later }) hp hl,
      h.fault, rfl, fun _ => by simp [rxRank, drainRank, hp, hm]⟩
  · exact ⟨_, _, .inl rfl, movesTo_of_phase (t := { s with
      mDst := s.rxDst, mOff := s.rxOffset, mN := s.rxLen, mK := 0, mPhase := MPhase.fetch }) hm hfetch
      fun later => exec_rxCopy_pos (s := { s with schedule := later }) hl,
      h.fault, rfl, fun _ => by simp [rxRank, drainRank, hp, hm]⟩

theorem RxAble.mK_lt (hm : s.mPhase ≠ MPhase.idle) : s.mK.toNat < 4 := by
  obtain ⟨hp, -, -, hN, hk, -⟩ := h.progress.run hm
  have h8 := (h.progress.fits (by simp [hp])).1
  rw [hN] at hk
  simp only [Config.frameMax] at h8
  omega

theorem RxAble.move_of_fetch (hm : s.mPhase = MPhase.fetch) : ∃ m t, IsRxMove m ∧ MovesTo m s t ∧ RxGoesOn s t := by
  obtain ⟨hp, -⟩ := h.progress.run (by simp [hm])
  have hk := h.mK_lt (by simp [hm])
  refine ⟨_, _, .inl rfl, movesTo_of_mPhase (i := .mFetch)
    (t := { s with mWord := s.win.d.get (s.mK.setWidth 2), mPhase := MPhase.emit }) (by simp [hp]) (by rw [hm]; rfl)
    fun later => exec_mFetch (s := { s with schedule := later }) hk, h.fault, rfl, fun _ => ?_⟩
  simp [rxRank, drainRank, hp, hm]
  omega

/-- Every byte of the run lies inside the destination. -/
theorem RxAble.index_inRange (hm : s.mPhase ≠ MPhase.idle) {i : Nat} (hi : i < s.mN.toNat) :
    (s.mOff + BitVec.ofNat 32 i).toNat < s.cap s.mDst := by
  obtain ⟨hp, hdst, hoff, hN, -⟩ := h.progress.run hm
  have hfits := (h.progress.fits (by simp [hp])).2
  have hsum := h.progress.sum
  have hroom := h.room
  have hsize := size.isLt
  rw [hN] at hi
  rw [hdst, hoff, ← ofNat_toNat_add, BitVec.toNat_ofNat]
  omega

theorem RxAble.exec_emit (hm : s.mPhase = MPhase.emit) (later : List Move) :
    exec .mEmit { s with schedule := later } =
      .next (emitNext { s with mem := emittedMem s, schedule := later }) := by
  obtain ⟨-, -, -, -, hk, -⟩ := h.progress.run (by simp [hm])
  exact exec_mEmit_of_inRange (s := { s with schedule := later }) (h.index_inRange (by simp [hm]) hk)
    fun hw => h.index_inRange (by simp [hm]) ((wantsHigh_iff _).mp hw)

theorem RxAble.move_of_emit (hm : s.mPhase = MPhase.emit) : ∃ m t, IsRxMove m ∧ MovesTo m s t ∧ RxGoesOn s t := by
  obtain ⟨hp, -⟩ := h.progress.run (by simp [hm])
  have hk := h.mK_lt (by simp [hm])
  have hfetch : decodeMPhase s.mPhase = .ok .mEmit := by
    rw [hm]
    rfl
  have hK : (s.mK + 1).toNat = s.mK.toNat + 1 := by bv_omega
  by_cases hn : 2 * (s.mK.toNat + 1) < s.mN.toNat
  · refine ⟨_, _, .inl rfl, movesTo_of_mPhase
      (t := { s with mem := emittedMem s, mK := s.mK + 1, mPhase := MPhase.fetch }) (by simp [hp]) hfetch
      fun later => (h.exec_emit hm later).trans (congrArg Host.Outcome.next ((emitNext_eq _).trans (if_pos hn))),
      h.fault, rfl, fun _ => ?_⟩
    simp only [rxRank, drainRank, hp, hm, hK]
    simp
    omega
  · refine ⟨_, _, .inl rfl, movesTo_of_mPhase
      (t := { s with mem := emittedMem s, mK := s.mK + 1, mPhase := MPhase.idle, phase := Phase.rxRearm }) (by simp [hp])
      hfetch fun later => (h.exec_emit hm later).trans
        (congrArg Host.Outcome.next ((emitNext_eq _).trans ((if_neg hn).trans (if_pos hp)))),
      h.fault, rfl, fun _ => ?_⟩
    simp [rxRank, drainRank, hp, hm]
    omega

theorem RxAble.move_of_rearm (hp : s.phase = Phase.rxRearm) : ∃ m t, IsRxMove m ∧ MovesTo m s t ∧ RxGoesOn s t :=
  ⟨_, _, .inl rfl, movesTo_of_phase (i := .rxRearm) (t := { mbRxRearm s with phase := Phase.rxAcct })
    (h.progress.mPhase_eq_idle (by simp [hp])) (by rw [hp]; rfl) fun _ => rfl,
    h.fault, rfl, fun _ => by simp [rxRank, drainRank, hp]⟩

theorem RxAble.move_of_acct (hp : s.phase = Phase.rxAcct) : ∃ m t, IsRxMove m ∧ MovesTo m s t ∧ RxGoesOn s t := by
  have hm := h.progress.mPhase_eq_idle (by simp [hp])
  have hfetch : decodePhase s.phase = .ok .rxAcct := by
    rw [hp]
    rfl
  by_cases hr : s.rxRemaining - zextSize s.rxLen = 0
  · exact ⟨_, _, .inl rfl, movesTo_of_phase (t := { s with
      rxOffset := s.rxOffset + zextSize s.rxLen, rxRemaining := s.rxRemaining - zextSize s.rxLen
      phase := Phase.idle, busy := false }) hm hfetch
      fun later => (exec_rxAcct { s with schedule := later }).trans (congrArg Host.Outcome.next (if_pos hr)),
      h.fault, rfl, fun hidle => absurd rfl hidle⟩
  · refine ⟨_, _, .inl rfl, movesTo_of_phase (t := { s with
      rxOffset := s.rxOffset + zextSize s.rxLen, rxRemaining := s.rxRemaining - zextSize s.rxLen
      phase := Phase.rxPoll }) hm hfetch
      fun later => (exec_rxAcct { s with schedule := later }).trans (congrArg Host.Outcome.next (if_neg hr)),
      h.fault, rfl, fun _ => ?_⟩
    cases hn : s.rxmb.newdat <;> simp [rxRank, drainRank, hp, hn]

theorem RxAble.move : ∃ m t, IsRxMove m ∧ MovesTo m s t ∧ RxGoesOn s t := by
  have hphase := h.progress.phase_rx
  simp only [receivePhases, List.mem_cons, List.not_mem_nil, or_false] at hphase
  rcases hphase with hp | hp | hp | hp | hp | hp
  · exact h.move_of_poll hp
  · exact h.move_of_req hp
  · exact h.move_of_len hp
  · by_cases hm : s.mPhase = MPhase.idle
    · exact h.move_of_copy hp hm
    · obtain ⟨-, -, -, -, -, h3, -⟩ := h.progress.run hm
      obtain ⟨i, hd⟩ := decodeMPhase_of_legal hm h3
      obtain ⟨hm, -⟩ | ⟨hm, -⟩ := decodeMPhase_ok hd
      · exact h.move_of_fetch hm
      · exact h.move_of_emit hm
  · exact h.move_of_rearm hp
  · exact h.move_of_acct hp

end Moves

/-! ### The whole call -/

/-- O55 for a chosen move; neither the engine nor a delivery adds bytes. -/
theorem RxProgress.outcome_of_movesTo {m : Move} (h : RxProgress dst size stream s) (hm : IsRxMove m)
    (hst : MovesTo m s t) : RxOutcome dst size stream t := by
  have hreset : m ≠ .reset := by rcases hm with rfl | rfl <;> simp
  have hnone : stream ++ m.addedBytes { s with schedule := [] } = stream := by
    rcases hm with rfl | rfl <;> exact List.append_nil stream
  have hout := rxOutcome_of_transition (s := { s with schedule := [] }) { h with } hreset hst.transition
  rw [hnone] at hout
  obtain hgo | hrest := hout
  · exact .inl { hgo with }
  · exact .inr hrest

/-- The call has returned without a fault, with the stream in the destination. -/
structure RxDone (dst : Handle) (size : Size) (stream : List Byte) (t : State) : Prop where
  phase : t.phase = Phase.idle
  busy : t.busy = false
  fault : t.fault = false
  bytes : t.firstBytes dst size.toNat = stream

theorem rx_reaches_done (h : RxAble dst size stream s) : ∃ t, Reaches IsRxMove s t ∧ RxDone dst size stream t := by
  refine reaches_of_rank (Good := RxAble dst size stream) rxRank (fun u hu => ?_) s h
  obtain ⟨m, t, hm, hst, hfault, hcaps, hlt⟩ := hu.move
  refine ⟨m, t, hm, hst, ?_⟩
  obtain hprog | hf | ⟨hp, hb, -, hbytes⟩ := hu.progress.outcome_of_movesTo hm hst
  · have hroom : size.toNat ≤ t.cap dst := by
      rw [State.cap, hcaps]
      exact hu.room
    exact .inr ⟨⟨hprog, hroom, hu.total⟩, hlt (receivePhases_disjoint hprog.phase_rx).2.1⟩
  · exact absurd (hfault.symm.trans hf) Bool.false_ne_true
  · have hall : t.firstBytes dst size.toNat = stream :=
      (List.append_inj (hbytes.trans (List.append_nil stream).symm) (by simp [hu.total])).1
    exact .inl ⟨hp, hb, hfault, hall⟩

theorem wireBytes_of_all_match (hall : ∀ f ∈ s.wireIn, s.rxmb.matches f.id = true) :
    s.wireBytes = s.wireIn.flatMap Frame.payload := by
  rw [State.wireBytes, List.filter_eq_self.mpr hall]

/-- Settles O56: the schedule is the one along which `rxRank` goes down, and the stream it writes is the earlier bytes and then the
payloads on the wire. -/
theorem receiveCanComplete : Obligations.ReceiveCanComplete := by
  intro s dst size stream h hp hn hroom hall hlen
  have hstream : s.firstBytes dst s.rxOffset.toNat ++ s.wireIn.flatMap Frame.payload = stream := by
    rw [← wireBytes_of_all_match hall, ← undrained_of_drained hn]
    exact h.stream_before_run (by simp [hp]) (h.mPhase_eq_idle (by simp [hp]))
  have hexact : stream.length = size.toNat := by
    rw [← hstream, List.length_append, State.firstBytes_length, hlen]
    exact h.sum
  obtain ⟨t, ⟨sched, hmoves, hrun⟩, hdone⟩ := rx_reaches_done ⟨h, hroom, hexact⟩
  exact ⟨sched, _, _, hmoves, hrun, hdone.phase, hdone.busy, hdone.fault, hdone.bytes.trans hstream.symm⟩

end Sys2Proof.Machine
end
